-- ==== Sys2Proof/Word.lean ====
section
/-! DEFINITION. The word types of the unit (00_scope R6, R7): bytes, 32-bit words, and a 128-bit vector as its four
32-bit lanes. -/

namespace Sys2Proof

/-- A byte of message memory (20_memory R70). -/
abbrev Byte := BitVec 8

/-- A 32-bit lane, hash word or register of the register block (00_scope R6). -/
abbrev Word := BitVec 32

/-- A 128-bit vector as its four lanes, lane 0 first: the literal `[l0, l1, l2, l3]` of 00_scope R7. -/
structure Vec where
  l0 : Word
  l1 : Word
  l2 : Word
  l3 : Word
deriving DecidableEq, Repr

end Sys2Proof
end

