-- ==== Sys2Proof/Syntax.lean ====
section
/-! DEFINITION. The instruction set, one constructor per row of spec/opcode_table.json (30_encoding R103), and the
assembler's form of an instruction (R105, R106). -/

namespace Sys2Proof

/-- A vector register number, 0..31 (30_encoding R102, 10_state R31). -/
abbrev VReg := Fin 32

/-- The seven instructions, in the table's order. Operands stand in the order Rd, Rn, Rm. -/
inductive Instr where
  /-- `SHA256H Qd, Qn, Vm.4S`, 42_sha256_hash R175. -/
  | sha256h (rd rn rm : VReg)
  /-- `SHA256H2 Qd, Qn, Vm.4S`, 42_sha256_hash R176. -/
  | sha256h2 (rd rn rm : VReg)
  /-- `SHA256SU1 Vd.4S, Vn.4S, Vm.4S`, 41_sha256_schedule R155. -/
  | sha256su1 (rd rn rm : VReg)
  /-- `SHA256SU0 Vd.4S, Vn.4S`, 41_sha256_schedule R153. -/
  | sha256su0 (rd rn : VReg)
  /-- `ADD Vd.4S, Vn.4S, Vm.4S`, 40_vector_basic R130. -/
  | add (rd rn rm : VReg)
  /-- `ORR Vd.16B, Vn.16B, Vm.16B`, 40_vector_basic R131. -/
  | orr (rd rn rm : VReg)
  /-- `REV32 Vd.16B, Vn.16B`, 40_vector_basic R133. -/
  | rev32 (rd rn : VReg)
deriving DecidableEq, Repr

/-- `MOV Vd.16B, Vn.16B`, another name of ORR with Rm = Rn (30_encoding R106, 40_vector_basic R132). -/
abbrev Instr.mov (rd rn : VReg) : Instr := .orr rd rn rn

/-- The mnemonics of 30_encoding R105, and MOV (R106). -/
inductive Mnemonic where
  | sha256h | sha256h2 | sha256su1 | sha256su0 | add | orr | rev32 | mov
deriving DecidableEq, Repr

/-- The spelling of a register operand: `Qn`, or `Vn` with an arrangement (10_state R33, 30_encoding R105); the last
six are the other A64 arrangements, which an assembler must reject here. -/
inductive Arrangement where
  | q | s4 | b16 | s2 | b8 | h4 | h8 | d1 | d2
deriving DecidableEq, Repr

/-- One operand as written, its register number not yet checked. -/
structure AsmOperand where
  reg : Nat
  arr : Arrangement
deriving DecidableEq, Repr

/-- One line of assembler: a mnemonic and its operands as written. -/
structure AsmLine where
  mnemonic : Mnemonic
  ops : List AsmOperand
deriving DecidableEq, Repr

end Sys2Proof
end

