-- ==== Sys2Proof/WellFormed.lean ====
section
/-! DEFINITION. Well-formedness. An `Instr` carries register numbers that cannot be out of range; what can be
ill-formed is a line of assembler, and `assemble` checks it (30_encoding R102, R105, R106). Log 17. -/

namespace Sys2Proof

/-- The registers an instruction names, Rd first. -/
def Instr.regs : Instr → List VReg
  | .sha256h rd rn rm => [rd, rn, rm]
  | .sha256h2 rd rn rm => [rd, rn, rm]
  | .sha256su1 rd rn rm => [rd, rn, rm]
  | .sha256su0 rd rn => [rd, rn]
  | .add rd rn rm => [rd, rn, rm]
  | .orr rd rn rm => [rd, rn, rm]
  | .rev32 rd rn => [rd, rn]

/-- The destination register Rd, the only register an instruction writes (30_encoding R110). -/
def Instr.rd : Instr → VReg
  | .sha256h rd _ _ => rd
  | .sha256h2 rd _ _ => rd
  | .sha256su1 rd _ _ => rd
  | .sha256su0 rd _ => rd
  | .add rd _ _ => rd
  | .orr rd _ _ => rd
  | .rev32 rd _ => rd

/-- The registers an instruction reads, Rd among them where its rule reads it (30_encoding R110). -/
def Instr.sources : Instr → List VReg
  | .sha256h rd rn rm => [rd, rn, rm]
  | .sha256h2 rd rn rm => [rd, rn, rm]
  | .sha256su1 rd rn rm => [rd, rn, rm]
  | .sha256su0 rd rn => [rd, rn]
  | .add _ rn rm => [rn, rm]
  | .orr _ rn rm => [rn, rm]
  | .rev32 _ rn => [rn]

/-- Every register number is one of V0..V31 (10_state R31). The type `VReg` already says so. -/
def Instr.wf (i : Instr) : Bool := i.regs.all fun r => r.val < 32

/-- Why a line of assembler is no instruction of the unit. -/
inductive AsmError where
  /-- The mnemonic takes another number of operands. -/
  | operandCount
  /-- An operand has an arrangement the mnemonic does not take (30_encoding R105). -/
  | arrangement
  /-- A register number is above 31 (30_encoding R102). -/
  | registerNumber
deriving DecidableEq, Repr

/-- The arrangements a mnemonic's operands must have, in order (30_encoding R105, R106). -/
def Mnemonic.shape : Mnemonic → List Arrangement
  | .sha256h => [.q, .q, .s4]
  | .sha256h2 => [.q, .q, .s4]
  | .sha256su1 => [.s4, .s4, .s4]
  | .sha256su0 => [.s4, .s4]
  | .add => [.s4, .s4, .s4]
  | .orr => [.b16, .b16, .b16]
  | .rev32 => [.b16, .b16]
  | .mov => [.b16, .b16]

/-- The instruction a mnemonic makes of register numbers in range; `none` where their number does not fit. -/
def Mnemonic.build : Mnemonic → List VReg → Option Instr
  | .sha256h, [d, n, m] => some (.sha256h d n m)
  | .sha256h2, [d, n, m] => some (.sha256h2 d n m)
  | .sha256su1, [d, n, m] => some (.sha256su1 d n m)
  | .sha256su0, [d, n] => some (.sha256su0 d n)
  | .add, [d, n, m] => some (.add d n m)
  | .orr, [d, n, m] => some (.orr d n m)
  | .rev32, [d, n] => some (.rev32 d n)
  | .mov, [d, n] => some (.mov d n)
  | _, _ => none

/-- A line of assembler checked and turned into an instruction; MOV becomes ORR with Rm = Rn (30_encoding R106). -/
def assemble (l : AsmLine) : Except AsmError Instr :=
  if l.ops.length ≠ l.mnemonic.shape.length then .error .operandCount
  else if l.ops.map (·.arr) ≠ l.mnemonic.shape then .error .arrangement
  else if l.ops.any (fun o => 32 ≤ o.reg) then .error .registerNumber
  else match l.mnemonic.build (l.ops.map fun o => Fin.ofNat 32 o.reg) with
    | some i => .ok i
    | none => .error .operandCount

/-- A line of assembler that is an instruction of the unit. -/
def AsmLine.wf (l : AsmLine) : Bool :=
  match assemble l with
  | .ok _ => true
  | .error _ => false

/-- The line that spells an instruction (30_encoding R105). -/
def Instr.toAsm : Instr → AsmLine
  | .sha256h d n m => ⟨.sha256h, [⟨d, .q⟩, ⟨n, .q⟩, ⟨m, .s4⟩]⟩
  | .sha256h2 d n m => ⟨.sha256h2, [⟨d, .q⟩, ⟨n, .q⟩, ⟨m, .s4⟩]⟩
  | .sha256su1 d n m => ⟨.sha256su1, [⟨d, .s4⟩, ⟨n, .s4⟩, ⟨m, .s4⟩]⟩
  | .sha256su0 d n => ⟨.sha256su0, [⟨d, .s4⟩, ⟨n, .s4⟩]⟩
  | .add d n m => ⟨.add, [⟨d, .s4⟩, ⟨n, .s4⟩, ⟨m, .s4⟩]⟩
  | .orr d n m => ⟨.orr, [⟨d, .b16⟩, ⟨n, .b16⟩, ⟨m, .b16⟩]⟩
  | .rev32 d n => ⟨.rev32, [⟨d, .b16⟩, ⟨n, .b16⟩]⟩

end Sys2Proof
end

