-- ==== Sys2Proof/Decode.lean ====
section
/-! DEFINITION. Decoding the word written to INSTR (30_encoding R100..R104), and after it the encoder, written from the
four formats of R101. -/

namespace Sys2Proof

/-- Why a word is no instruction. -/
inductive DecodeError where
  /-- The word matches no row of 30_encoding R103; it is the info word of the fault it raises (60_exceptions R261). -/
  | undefined (w : Word)
deriving DecidableEq, Repr

/-- The 5-bit register number at bits lo+4..lo of a word (30_encoding R102). -/
def regField (lo : Nat) (w : Word) : VReg := (w.extractLsb' lo 5).toFin

/-- Rd = bits [4:0]. -/
def rdOf (w : Word) : VReg := regField 0 w

/-- Rn = bits [9:5]. -/
def rnOf (w : Word) : VReg := regField 5 w

/-- Rm = bits [20:16]. -/
def rmOf (w : Word) : VReg := regField 16 w

/-- One row of the opcode map: a word w is of the row when `w AND mask = pattern` (30_encoding R103). -/
structure OpcodeRow where
  pattern : Word
  mask : Word
  build : Word → Instr

/-- The opcode map of 30_encoding R103, in its order. -/
def opcodeTable : List OpcodeRow :=
  [ ⟨0x5E004000#32, 0xFFE0FC00#32, fun w => .sha256h (rdOf w) (rnOf w) (rmOf w)⟩,
    ⟨0x5E005000#32, 0xFFE0FC00#32, fun w => .sha256h2 (rdOf w) (rnOf w) (rmOf w)⟩,
    ⟨0x5E006000#32, 0xFFE0FC00#32, fun w => .sha256su1 (rdOf w) (rnOf w) (rmOf w)⟩,
    ⟨0x5E282800#32, 0xFFFFFC00#32, fun w => .sha256su0 (rdOf w) (rnOf w)⟩,
    ⟨0x4EA08400#32, 0xFFE0FC00#32, fun w => .add (rdOf w) (rnOf w) (rmOf w)⟩,
    ⟨0x4EA01C00#32, 0xFFE0FC00#32, fun w => .orr (rdOf w) (rnOf w) (rmOf w)⟩,
    ⟨0x6E200800#32, 0xFFFFFC00#32, fun w => .rev32 (rdOf w) (rnOf w)⟩ ]

/-- The instruction a word is, or the name of its rejection: the first row that matches, if any (30_encoding R103). -/
def decode (w : Word) : Except DecodeError Instr :=
  match opcodeTable.find? fun r => w &&& r.mask == r.pattern with
  | some r => .ok (r.build w)
  | none => .error (.undefined w)

/-- The decoder on a word given as a number with its width in bits; bits at or above nbits are 0. -/
def decodeTableWord (nbits w : Nat) : Option Instr :=
  match decode (BitVec.ofNat 32 (w % 2 ^ nbits)) with
  | .ok i => some i
  | .error _ => none

/-- A register number as its 5-bit field. -/
def regBits (r : VReg) : BitVec 5 := BitVec.ofNat 5 r.val

/-- A field of n bits put at bits lo+n-1..lo of a word. -/
def bitsAt {n : Nat} (lo : Nat) (x : BitVec n) : Word := x.setWidth 32 <<< lo

/-- Format SHA3 of 30_encoding R101: 31:24 01011110, 23:22 size 00, 21 0, 20:16 Rm, 15 0, 14:12 opcode, 11:10 00, 9:5 Rn,
4:0 Rd. -/
def encodeSha3 (opcode : BitVec 3) (rd rn rm : VReg) : Word :=
  bitsAt 24 0b01011110#8 ||| bitsAt 22 0b00#2 ||| bitsAt 21 0#1 ||| bitsAt 16 (regBits rm) ||| bitsAt 15 0#1 |||
    bitsAt 12 opcode ||| bitsAt 10 0b00#2 ||| bitsAt 5 (regBits rn) ||| bitsAt 0 (regBits rd)

/-- Format SHA2 of 30_encoding R101: 31:24 01011110, 23:22 size 00, 21:17 10100, 16:12 opcode, 11:10 10, 9:5 Rn, 4:0 Rd. -/
def encodeSha2 (opcode : BitVec 5) (rd rn : VReg) : Word :=
  bitsAt 24 0b01011110#8 ||| bitsAt 22 0b00#2 ||| bitsAt 17 0b10100#5 ||| bitsAt 12 opcode ||| bitsAt 10 0b10#2 |||
    bitsAt 5 (regBits rn) ||| bitsAt 0 (regBits rd)

/-- Format 3SAME of 30_encoding R101: 31 0, 30 Q, 29 U, 28:24 01110, 23:22 size, 21 1, 20:16 Rm, 15:11 opcode, 10 1, 9:5 Rn,
4:0 Rd. -/
def encodeThreeSame (q u : BitVec 1) (size : BitVec 2) (opcode : BitVec 5) (rd rn rm : VReg) : Word :=
  bitsAt 31 0#1 ||| bitsAt 30 q ||| bitsAt 29 u ||| bitsAt 24 0b01110#5 ||| bitsAt 22 size ||| bitsAt 21 1#1 |||
    bitsAt 16 (regBits rm) ||| bitsAt 11 opcode ||| bitsAt 10 1#1 ||| bitsAt 5 (regBits rn) ||| bitsAt 0 (regBits rd)

/-- Format 2MISC of 30_encoding R101: 31 0, 30 Q, 29 U, 28:24 01110, 23:22 size, 21:17 10000, 16:12 opcode, 11:10 10, 9:5 Rn,
4:0 Rd. -/
def encodeTwoMisc (q u : BitVec 1) (size : BitVec 2) (opcode : BitVec 5) (rd rn : VReg) : Word :=
  bitsAt 31 0#1 ||| bitsAt 30 q ||| bitsAt 29 u ||| bitsAt 24 0b01110#5 ||| bitsAt 22 size ||| bitsAt 17 0b10000#5 |||
    bitsAt 12 opcode ||| bitsAt 10 0b10#2 ||| bitsAt 5 (regBits rn) ||| bitsAt 0 (regBits rd)

/-- The word of an instruction, from the formats of 30_encoding R101 and the fixed fields of R103. -/
def encode : Instr → Word
  | .sha256h rd rn rm => encodeSha3 0b100#3 rd rn rm
  | .sha256h2 rd rn rm => encodeSha3 0b101#3 rd rn rm
  | .sha256su1 rd rn rm => encodeSha3 0b110#3 rd rn rm
  | .sha256su0 rd rn => encodeSha2 0b00010#5 rd rn
  | .add rd rn rm => encodeThreeSame 1#1 0#1 0b10#2 0b10000#5 rd rn rm
  | .orr rd rn rm => encodeThreeSame 1#1 0#1 0b10#2 0b00011#5 rd rn rm
  | .rev32 rd rn => encodeTwoMisc 1#1 1#1 0b00#2 0b00000#5 rd rn

end Sys2Proof
end

