-- ==== Sys2Proof/Config.lean ====
section
/-! DEFINITION. What an implementation fixes (MEM_SIZE, UNIT_BASE, NUM_UNITS) and the free values of the model. The opaque constants have no
body, so whatever is proved of them holds for every implementation and every draw. -/

namespace Sys2Proof

/-- How far MEM_SIZE lies above its least value 64; its type is the bound of 00_scope R5. Log 7. -/
opaque Config.memSlack : Fin 4294967233

/-- MEM_SIZE, the bytes of message memory: the open parameter of 00_scope R5, 64 ≤ MEM_SIZE ≤ 2^32. Log 7. -/
def Config.memSize : Nat := 64 + Config.memSlack.val

theorem Config.memSize_ge : 64 ≤ Config.memSize := Nat.le_add_right _ _

theorem Config.memSize_le : Config.memSize ≤ 2 ^ 32 := by
  have := Config.memSlack.isLt
  unfold Config.memSize
  omega

/-- UNIT_BASE of each unit of the platform, by the unit's number: where its register block sits in the host's address space,
the open parameter of 00_scope R5. Log 8. -/
opaque Config.unitBase : Nat → Nat

/-- How many units a platform has beside the first. Log 8. -/
opaque Config.unitSlack : Nat

/-- NUM_UNITS, the number of units of a platform: the open parameter of 00_scope R5, at least 1 (92_eei_decisions, open
parameters). Log 8. -/
def Config.numUnits : Nat := 1 + Config.unitSlack

theorem Config.numUnits_ge : 1 ≤ Config.numUnits := Nat.le_add_right _ _

/-- FREE VALUE: the n-th 32-bit word drawn freely ("any value" of 00_scope R10). The sequence is one for
all the units of a platform. Log 6, 19. -/
opaque Config.freeWord : Nat → Word

/-- FREE VALUE: the n-th integer drawn freely; only CUR_ADDR after a reset uses it. Log 2. -/
opaque Config.freeNat : Nat → Nat

end Sys2Proof
end

