-- ==== Sys2Proof/Machine/State.lean ====
section
/-! DEFINITION. The state of the unit as plain data (10_state), the events of the host and the engine, the named ends
of a run, and the state right after reset (70_reset_and_hazards R300). -/

namespace Sys2Proof.Machine

/-- STATUS.CAUSE, the only codes there are (60_exceptions R260). -/
inductive Cause where
  /-- Code 0: no fault recorded. -/
  | none
  /-- Code 1: a word written to INSTR matches no row (R261). -/
  | undefinedInstruction
  /-- Code 2: a block not wholly inside message memory (R262). -/
  | blockOutOfRange
deriving DecidableEq, Repr

/-- One event of the single total order of 20_memory R80. Offsets are from UNIT_BASE (00_scope R9). Log 4, 8. -/
inductive Event where
  /-- The host writes v to the register block, with an access of `width` bits. HostWrite32 has width 32. -/
  | regWrite (off width : Nat) (v : Word)
  /-- The host reads the register block, with an access of `width` bits. HostRead32 has width 32. -/
  | regRead (off width : Nat)
  /-- The host writes one byte of message memory (10_state R30). -/
  | memWrite (addr : Nat) (b : Byte)
  /-- The host reads one byte of message memory (10_state R30). -/
  | memRead (addr : Nat)
  /-- The engine has its turn: a block step if one is enabled (43_compression_engine R207). -/
  | engine
  /-- The platform resets the unit (70_reset_and_hazards R300). -/
  | reset
deriving DecidableEq, Repr

/-- Message memory: the bytes that differ from what an unlisted address reads as, addresses strictly rising. -/
abbrev Memory := List Host.Cell

/-- Every piece of state of the unit, and the model's own fields (schedule, lastRead, lastByte, draws). -/
structure State where
  /-- V0..V31 (10_state R31). -/
  v : Vector Vec 32
  /-- STATE0..STATE7 (10_state R36). -/
  hash : Vector Word 8
  /-- SRC_ADDR (10_state R37). -/
  srcAddr : Word
  /-- NBLOCKS (10_state R38). -/
  nblocks : Word
  /-- STATUS.BUSY (10_state R40). -/
  busy : Bool
  /-- STATUS.FAULT (10_state R40). -/
  fault : Bool
  /-- STATUS.CAUSE (10_state R40). -/
  cause : Cause
  /-- FAULT_INFO (10_state R41). -/
  faultInfo : Word
  /-- CUR_ADDR, hidden, an unbounded integer (10_state R48). -/
  curAddr : Nat
  /-- REMAIN, hidden (10_state R48). -/
  remain : Word
  /-- Message memory (20_memory R70). -/
  mem : Memory
  /-- The model's own: the coming events, the next one first (10_state R30, 20_memory R80). Log 4. -/
  schedule : List Event
  /-- The model's own: what the host's latest register read returned. Log 5. -/
  lastRead : Word
  /-- The model's own: what the host's latest message-memory read returned. Log 5. -/
  lastByte : Byte
  /-- The model's own: how many free values have been drawn. Log 6. -/
  draws : Nat
deriving DecidableEq, Repr

/-- A run of the model ends in a fault. The unit's own faults are no such end: they are recorded in STATUS and the
machine goes on (60_exceptions R263). -/
inductive Fault where
  /-- Raised by a host access to a byte outside 0..MEM_SIZE-1, which does not exist (20_memory R70). Safe. Log 12. -/
  | outsideMemory
deriving DecidableEq, Repr

/-- A host action the model gives no meaning (00_scope R10, 60_exceptions R266). -/
inductive Refusal where
  /-- An instruction with no meaning yet; no arm of exec answers so. Safe. -/
  | notModelled (mnemonic : String)
  /-- Raised by a register-block access of a width other than 32 bits (10_state R46). Safe. Log 13. -/
  | accessWidth
  /-- Raised by a register-block access at an offset that is not a multiple of 4 (10_state R46). Safe. Log 13. -/
  | misaligned
  /-- Raised by a register-block access at an offset of 0x300 or more, or at a host address in no unit's window
  (10_state R46, 93 U9). Safe. Log 8, 13. -/
  | outsideWindow
  /-- Raised by a register-block access at 0x018, 0x01C or 0x040..0x0FC (10_state R46). Safe. Log 13. -/
  | reservedOffset
  /-- Raised by a host write to a byte of the active command's blocks (20_memory R82). Unsafe: a host that writes
  there on real hardware goes on. Log 11. -/
  | activeBlockWrite
  /-- Raised by the host driver on a message of 2^61 bytes or more (44_host_driver R245). Safe. Log 14. -/
  | messageTooLong
deriving DecidableEq, Repr

/-- The unit right after reset (70_reset_and_hazards R300): BUSY, FAULT, CAUSE and FAULT_INFO are 0. The registers the
spec leaves unspecified hold 0 (DESIGN CHOICE, log 1), memory lists nothing (log 3) and nothing is scheduled (log 4). -/
def State.reset : State where
  v := Vector.replicate 32 ⟨0, 0, 0, 0⟩
  hash := Vector.replicate 8 0
  srcAddr := 0
  nblocks := 0
  busy := false
  fault := false
  cause := .none
  faultInfo := 0
  curAddr := 0
  remain := 0
  mem := []
  schedule := []
  lastRead := 0
  lastByte := 0
  draws := 0

end Sys2Proof.Machine
end

