-- ==== Sys2Proof/Machine/Operands.lean ====
section
/-! DEFINITION. Operands: the word operators of 00_scope R8, the lanes of a vector (R7), and the one pair of operations
that reads and writes a vector register (10_state R31, R44). -/

namespace Sys2Proof

/-- `SHR(x, n)`: shift right with zero fill (00_scope R8). -/
def shr (x : Word) (n : Nat) : Word := x >>> n

/-- `ROR(x, n) = SHR(x, n) OR (x << (32 − n))[31:0]` (00_scope R8). -/
def ror (x : Word) (n : Nat) : Word := shr x n ||| x <<< (32 - n)

/-- `BSWAP32(x) = x[7:0] : x[15:8] : x[23:16] : x[31:24]` (00_scope R8). -/
def bswap32 (x : Word) : Word :=
  x.extractLsb' 0 8 ++ x.extractLsb' 8 8 ++ x.extractLsb' 16 8 ++ x.extractLsb' 24 8

/-- Four bytes as a word, the first byte in bits 31:24 (20_memory R71). -/
def beWord (b0 b1 b2 b3 : Byte) : Word := b0 ++ b1 ++ b2 ++ b3

/-- `Elem(v, e)`: lane e (00_scope R7). -/
def Vec.elem (v : Vec) (e : Fin 4) : Word :=
  match e with
  | 0 => v.l0
  | 1 => v.l1
  | 2 => v.l2
  | 3 => v.l3

/-- `Elem(v, e) <- x`: write lane e only (00_scope R7). -/
def Vec.setElem (v : Vec) (e : Fin 4) (x : Word) : Vec :=
  match e with
  | 0 => { v with l0 := x }
  | 1 => { v with l1 := x }
  | 2 => { v with l2 := x }
  | 3 => { v with l3 := x }

/-- The 128-bit value `l3 : l2 : l1 : l0` of a vector (00_scope R7). -/
def Vec.toBits (v : Vec) : BitVec 128 := v.l3 ++ v.l2 ++ v.l1 ++ v.l0

/-- The vector whose lane e is bits 32e+31..32e of a 128-bit value (10_state R32). -/
def Vec.ofBits (x : BitVec 128) : Vec :=
  ⟨x.extractLsb' 0 32, x.extractLsb' 32 32, x.extractLsb' 64 32, x.extractLsb' 96 32⟩

namespace Machine

/-- `V[r]` (00_scope R9). No register is hardwired (10_state R31). -/
def State.readV (s : State) (r : VReg) : Vec := s.v[r.val]

/-- `V[r] <- x` (00_scope R9). -/
def State.writeV (s : State) (r : VReg) (x : Vec) : State := { s with v := s.v.set r.val x }

end Machine

end Sys2Proof
end

