-- ==== Sys2Proof/Machine/Ops.lean ====
section
/-! DEFINITION. The shared operations: message memory, the hash state, free values, raising a fault (60_exceptions
R263), which has no return but reset (R265), and taking a reset (70_reset_and_hazards R300). -/

namespace Sys2Proof.Machine

/-- What a byte of message memory that nothing has written reads as: 0, DESIGN CHOICE. Log 3. -/
def Memory.unlisted : Byte := 0

/-- The byte at an address. -/
def Memory.read : Memory → Nat → Byte
  | [], _ => Memory.unlisted
  | (b, x) :: m, a => if b = a then x else Memory.read m a

/-- Put a byte in front of cells whose addresses are all higher, listing it only where it differs from an unlisted
one. -/
def Memory.cons (a : Nat) (x : Byte) (m : Memory) : Memory :=
  if x = Memory.unlisted then m else (a, x) :: m

/-- Write the byte at an address, keeping the canonical form. -/
def Memory.write : Memory → Nat → Byte → Memory
  | [], a, x => Memory.cons a x []
  | (b, y) :: m, a, x =>
    if a < b then Memory.cons a x ((b, y) :: m)
    else if a = b then Memory.cons a x m
    else (b, y) :: Memory.write m a x

/-- The canonical form: addresses strictly rising, no entry equal to what an unlisted address reads as. -/
def Memory.wf : Memory → Bool
  | [] => true
  | (a, x) :: m => x ≠ Memory.unlisted && m.all (fun c => a < c.1) && Memory.wf m

/-- The 64 bytes of a block, byte 0 first (00_scope R5 BLOCK_BYTES). -/
abbrev Block := Vector Byte 64

/-- `MemRead(a, 64)`: the bytes at addresses a..a+63 (00_scope R9). -/
def Memory.readBlock (m : Memory) (a : Nat) : Block := Vector.ofFn fun k : Fin 64 => Memory.read m (a + k.val)

/-- `STATEi` (10_state R36). -/
def State.readHash (s : State) (i : Fin 8) : Word := s.hash[i.val]

/-- `STATEi <- x` (10_state R36). -/
def State.writeHash (s : State) (i : Fin 8) (x : Word) : State := { s with hash := s.hash.set i.val x }

/-- Eight free words from draw n on. -/
def freeHash (n : Nat) : Vector Word 8 := Vector.ofFn fun i : Fin 8 => Config.freeWord (n + i.val)

/-- A vector of four free words from draw n on. -/
def freeVec (n : Nat) : Vec :=
  ⟨Config.freeWord n, Config.freeWord (n + 1), Config.freeWord (n + 2), Config.freeWord (n + 3)⟩

/-- `raise Fault(cause, info)` (60_exceptions R263). Its callers take it only when FAULT = 0. A command under way is
abandoned, and STATE0..7 become free values, drawn once (93 U5, log 6). CUR_ADDR and REMAIN keep their values. -/
def raiseFault (cause : Cause) (info : Word) (s : State) : State :=
  if s.busy then
    { s with fault := true, cause := cause, faultInfo := info, busy := false,
             hash := freeHash s.draws, draws := s.draws + 8 }
  else
    { s with fault := true, cause := cause, faultInfo := info }

/-- Taking a reset during a run (70_reset_and_hazards R300), the only return from a fault (60_exceptions R265). BUSY,
FAULT, CAUSE and FAULT_INFO become 0; message memory keeps its contents; the registers R300 leaves unspecified become
free values (log 2). What the host still has to do and what it last read are not the unit's. -/
def takeReset (s : State) : State :=
  { s with
    v := Vector.ofFn fun r : Fin 32 => freeVec (s.draws + 4 * r.val)
    hash := freeHash (s.draws + 128)
    srcAddr := Config.freeWord (s.draws + 136)
    nblocks := Config.freeWord (s.draws + 137)
    remain := Config.freeWord (s.draws + 138)
    curAddr := Config.freeNat s.draws
    busy := false
    fault := false
    cause := .none
    faultInfo := 0
    draws := s.draws + 139 }

end Sys2Proof.Machine
end

