-- ==== Sys2Proof/Machine/Hash.lean ====
section
/-! DEFINITION. The hash-update instructions SHA256H and SHA256H2 (42_sha256_hash). Each does four rounds
(90_conflicts C1). -/

namespace Sys2Proof.Machine

/-- Σ0 (42_sha256_hash R170). -/
def bigSigma0 (x : Word) : Word := ror x 2 ^^^ ror x 13 ^^^ ror x 22

/-- Σ1 (42_sha256_hash R171). -/
def bigSigma1 (x : Word) : Word := ror x 6 ^^^ ror x 11 ^^^ ror x 25

/-- Ch (42_sha256_hash R172). -/
def ch (x y z : Word) : Word := (x &&& y) ^^^ (~~~x &&& z)

/-- Maj (42_sha256_hash R173). -/
def maj (x y z : Word) : Word := (x &&& y) ^^^ (x &&& z) ^^^ (y &&& z)

/-- One iteration of the loop of HashQuad on the pair (X, Y) with the word w: the lane-3 writes, then the rotation of
Y:X left by 32 bits (42_sha256_hash R174). -/
def hashIter (p : Vec × Vec) (w : Word) : Vec × Vec :=
  let x := p.1
  let y := p.2
  let chs := ch y.l0 y.l1 y.l2
  let mj := maj x.l0 x.l1 x.l2
  let t := y.l3 + bigSigma1 y.l0 + chs + w
  let x3 := t + x.l3
  let y3 := t + bigSigma0 x.l0 + mj
  (⟨y3, x.l0, x.l1, x.l2⟩, ⟨x3, y.l0, y.l1, y.l2⟩)

/-- `HashQuad(X, Y, W, part1)`: four iterations, wk0 first; part1 chooses the half returned (42_sha256_hash R174). -/
def hashQuad (x y w : Vec) (part1 : Bool) : Vec :=
  let r := hashIter (hashIter (hashIter (hashIter (x, y) w.l0) w.l1) w.l2) w.l3
  if part1 then r.1 else r.2

/-- `SHA256H Qd, Qn, Vm.4S` (42_sha256_hash R175). -/
def execSha256h (rd rn rm : VReg) (s : State) : Host.Outcome State Fault Refusal :=
  .next (s.writeV rd (hashQuad (s.readV rd) (s.readV rn) (s.readV rm) true))

/-- `SHA256H2 Qd, Qn, Vm.4S`: the roles of Qd and Qn are swapped (42_sha256_hash R176). -/
def execSha256h2 (rd rn rm : VReg) (s : State) : Host.Outcome State Fault Refusal :=
  .next (s.writeV rd (hashQuad (s.readV rn) (s.readV rd) (s.readV rm) false))

end Sys2Proof.Machine
end

