-- ==== Sys2Proof/Machine/Schedule.lean ====
section
/-! DEFINITION. The message-schedule instructions SHA256SU0 and SHA256SU1 (41_sha256_schedule). -/

namespace Sys2Proof.Machine

/-- σ0 (41_sha256_schedule R150). -/
def sigma0 (x : Word) : Word := ror x 7 ^^^ ror x 18 ^^^ shr x 3

/-- σ1 (41_sha256_schedule R151). -/
def sigma1 (x : Word) : Word := ror x 17 ^^^ ror x 19 ^^^ shr x 10

/-- `SU0(a, b)` (41_sha256_schedule R152). -/
def su0 (a b : Vec) : Vec :=
  let t : Vec := ⟨a.l1, a.l2, a.l3, b.l0⟩
  ⟨a.l0 + sigma0 t.l0, a.l1 + sigma0 t.l1, a.l2 + sigma0 t.l2, a.l3 + sigma0 t.l3⟩

/-- `SU1(p, c, f)`: lanes 2 and 3 use the new lanes 0 and 1 (41_sha256_schedule R154). -/
def su1 (p c f : Vec) : Vec :=
  let t0 : Vec := ⟨c.l1, c.l2, c.l3, f.l0⟩
  let r0 := sigma1 f.l2 + p.l0 + t0.l0
  let r1 := sigma1 f.l3 + p.l1 + t0.l1
  let r2 := sigma1 r0 + p.l2 + t0.l2
  let r3 := sigma1 r1 + p.l3 + t0.l3
  ⟨r0, r1, r2, r3⟩

/-- `SHA256SU0 Vd.4S, Vn.4S` (41_sha256_schedule R153). -/
def execSha256su0 (rd rn : VReg) (s : State) : Host.Outcome State Fault Refusal :=
  .next (s.writeV rd (su0 (s.readV rd) (s.readV rn)))

/-- `SHA256SU1 Vd.4S, Vn.4S, Vm.4S` (41_sha256_schedule R155). -/
def execSha256su1 (rd rn rm : VReg) (s : State) : Host.Outcome State Fault Refusal :=
  .next (s.writeV rd (su1 (s.readV rd) (s.readV rn) (s.readV rm)))

end Sys2Proof.Machine
end

