-- ==== Sys2Proof/Machine/VectorBasic.lean ====
section
/-! DEFINITION. The basic vector instructions ADD, ORR (with its alias MOV) and REV32 (40_vector_basic). -/

namespace Sys2Proof.Machine

/-- `Add(a, b)`: lanewise sum modulo 2^32 (40_vector_basic R130). -/
def vecAdd (a b : Vec) : Vec := ⟨a.l0 + b.l0, a.l1 + b.l1, a.l2 + b.l2, a.l3 + b.l3⟩

/-- The OR of all 128 bits, written lane by lane (40_vector_basic R131). -/
def vecOr (a b : Vec) : Vec := ⟨a.l0 ||| b.l0, a.l1 ||| b.l1, a.l2 ||| b.l2, a.l3 ||| b.l3⟩

/-- BSWAP32 of each lane (40_vector_basic R133). -/
def vecRev32 (a : Vec) : Vec := ⟨bswap32 a.l0, bswap32 a.l1, bswap32 a.l2, bswap32 a.l3⟩

/-- `ADD Vd.4S, Vn.4S, Vm.4S` (40_vector_basic R130). -/
def execAdd (rd rn rm : VReg) (s : State) : Host.Outcome State Fault Refusal :=
  .next (s.writeV rd (vecAdd (s.readV rn) (s.readV rm)))

/-- `ORR Vd.16B, Vn.16B, Vm.16B`; with Rm = Rn it is MOV (40_vector_basic R131, R132). -/
def execOrr (rd rn rm : VReg) (s : State) : Host.Outcome State Fault Refusal :=
  .next (s.writeV rd (vecOr (s.readV rn) (s.readV rm)))

/-- `REV32 Vd.16B, Vn.16B` (40_vector_basic R133). -/
def execRev32 (rd rn : VReg) (s : State) : Host.Outcome State Fault Refusal :=
  .next (s.writeV rd (vecRev32 (s.readV rn)))

end Sys2Proof.Machine
end

