-- ==== Sys2Proof/Machine/Dispatch.lean ====
section
/-! DEFINITION. The meaning of every instruction: one arm per constructor of Instr (30_encoding R110). -/

namespace Sys2Proof.Machine

def exec (i : Instr) (s : State) : Host.Outcome State Fault Refusal :=
  match i with
  | .sha256h rd rn rm => Sys2Proof.Machine.execSha256h rd rn rm s
  | .sha256h2 rd rn rm => Sys2Proof.Machine.execSha256h2 rd rn rm s
  | .sha256su1 rd rn rm => Sys2Proof.Machine.execSha256su1 rd rn rm s
  | .sha256su0 rd rn => Sys2Proof.Machine.execSha256su0 rd rn s
  | .add rd rn rm => Sys2Proof.Machine.execAdd rd rn rm s
  | .orr rd rn rm => Sys2Proof.Machine.execOrr rd rn rm s
  | .rev32 rd rn => Sys2Proof.Machine.execRev32 rd rn s

end Sys2Proof.Machine
end

