-- ==== Sys2Proof/Machine/Engine.lean ====
section
/-! DEFINITION. The block engine: CompressBlock, INIT, START and the block step (43_compression_engine). -/

namespace Sys2Proof.Machine

/-- The hash state STATE0..7, or any chaining value (10_state R36). -/
abbrev HashState := Vector Word 8

/-- `state0 = [STATE0, STATE1, STATE2, STATE3]` (10_state R36, 90_conflicts C3). -/
def state0Of (h : HashState) : Vec := ⟨h[0], h[1], h[2], h[3]⟩

/-- `state1 = [STATE4, STATE5, STATE6, STATE7]` (10_state R36, 90_conflicts C3). -/
def state1Of (h : HashState) : Vec := ⟨h[4], h[5], h[6], h[7]⟩

/-- The hash state of its two halves (43_compression_engine R203, last line). -/
def ofHalves (x y : Vec) : HashState := #v[x.l0, x.l1, x.l2, x.l3, y.l0, y.l1, y.l2, y.l3]

/-- `W[t] = MEM[a+4t] : MEM[a+4t+1] : MEM[a+4t+2] : MEM[a+4t+3]`, big-endian (20_memory R71). -/
def blockWord (b : Block) (t : Fin 16) : Word :=
  beWord b[4 * t.val] b[4 * t.val + 1] b[4 * t.val + 2] b[4 * t.val + 3]

/-- `msg_j = [W[4j], W[4j+1], W[4j+2], W[4j+3]]` of a block (20_memory R71). -/
def blockVec (b : Block) (j : Fin 4) : Vec :=
  ⟨blockWord b ⟨4 * j.val, by omega⟩, blockWord b ⟨4 * j.val + 1, by omega⟩,
   blockWord b ⟨4 * j.val + 2, by omega⟩, blockWord b ⟨4 * j.val + 3, by omega⟩⟩

/-- The four schedule vectors of a block before the first step (43_compression_engine R203 step 1). -/
def blockMsg (b : Block) : Vector Vec 4 := #v[blockVec b 0, blockVec b 1, blockVec b 2, blockVec b 3]

/-- The scratch of one block that changes from step to step (10_state R49). -/
structure Scratch where
  msg : Vector Vec 4
  state0 : Vec
  state1 : Vec
deriving DecidableEq, Repr

/-- The schedule vectors after step i: steps 0..11 replace msg_(i mod 4), the rest replace none (R202, R203). -/
def expand (i : Fin 16) (msg : Vector Vec 4) : Vector Vec 4 :=
  let j := i.val % 4
  if i.val < 12 then
    msg.set j (su1 (su0 msg[j] msg[(j + 1) % 4]) msg[(j + 2) % 4] msg[(j + 3) % 4])
  else msg

/-- One quad-round step i of CompressBlock: wk is taken from msg_(i mod 4) before that vector is expanded
(43_compression_engine R202, R203 step 3). -/
def quadRound (x : Scratch) (i : Fin 16) : Scratch :=
  let wk := vecAdd x.msg[i.val % 4] (kGroup i)
  { msg := expand i x.msg
    state0 := hashQuad x.state0 x.state1 wk true
    state1 := hashQuad x.state0 x.state1 wk false }

/-- The sixteen quad-round steps in order. -/
def quadRounds (x : Scratch) : Scratch := (List.finRange 16).foldl quadRound x

/-- `CompressBlock(S, B)` (43_compression_engine R203). -/
def compressBlock (h : HashState) (b : Block) : HashState :=
  let x := quadRounds ⟨blockMsg b, state0Of h, state1Of h⟩
  ofHalves (vecAdd x.state0 (state0Of h)) (vecAdd x.state1 (state1Of h))

/-- INIT: STATE[i] <- H0[i] (43_compression_engine R205). -/
def initHash (s : State) : State := { s with hash := h0 }

/-- START: latch SRC_ADDR and NBLOCKS; a command of 0 blocks completes at once (43_compression_engine R206). -/
def start (s : State) : State :=
  { s with curAddr := s.srcAddr.toNat, remain := s.nblocks,
           busy := if s.nblocks ≠ 0 then true else s.busy }

/-- The block of a block step lies wholly inside message memory (20_memory R77). -/
def blockInRange (memSize : Nat) (s : State) : Bool := s.curAddr + 64 ≤ memSize

/-- A block step is enabled: BUSY = 1 and FAULT = 0 (43_compression_engine R207). -/
def engineEnabled (s : State) : Bool := s.busy && !s.fault

/-- One block step in a memory of memSize bytes (43_compression_engine R207, 60_exceptions R262). Log 16. -/
def blockStep (memSize : Nat) (s : State) : State :=
  if blockInRange memSize s then
    { s with hash := compressBlock s.hash (Memory.readBlock s.mem s.curAddr),
             curAddr := s.curAddr + 64, remain := s.remain - 1,
             busy := if s.remain - 1 = 0 then false else s.busy }
  else raiseFault .blockOutOfRange (BitVec.ofNat 32 s.curAddr) s

/-- The engine's turn: its one transition where that is enabled, else nothing (43_compression_engine R207, 60_exceptions
R273: while BUSY = 0 it takes no steps). -/
def engineTurn (memSize : Nat) (s : State) : State :=
  if engineEnabled s then blockStep memSize s else s

end Sys2Proof.Machine
end

