-- ==== Sys2Proof/Machine/Flags.lean ====
section
/-! DEFINITION. The unit has no condition flags (10_state R35, R50); its only status bits are those of STATUS, and this
file puts the STATUS word together (10_state R40). -/

namespace Sys2Proof.Machine

/-- The 4-bit code of a cause (60_exceptions R260). -/
def Cause.code : Cause → BitVec 4
  | .none => 0
  | .undefinedInstruction => 1
  | .blockOutOfRange => 2

/-- The STATUS word: BUSY in bit 0, FAULT in bit 1, CAUSE in bits 7:4, every reserved bit 0 (10_state R40). -/
def State.statusWord (s : State) : Word :=
  0#24 ++ s.cause.code ++ 0#2 ++ BitVec.ofBool s.fault ++ BitVec.ofBool s.busy

end Sys2Proof.Machine
end

