-- ==== Sys2Proof/Machine/Port.lean ====
section
/-! DEFINITION. The register block: its map, its access rules, and the instruction port behind INSTR (10_state
R37..R46, 30_encoding R110). -/

namespace Sys2Proof.Machine

/-- The registers of the block (10_state R43). -/
inductive BlockReg where
  | ctrl | status | srcAddr | nblocks | faultInfo | instr
  | state (i : Fin 8)
  | vreg (r : VReg) (e : Fin 4)
deriving DecidableEq, Repr

/-- The register at an offset, or why the access is refused (10_state R43, R46). Log 13. -/
def regAt (off width : Nat) : Except Refusal BlockReg :=
  if width ≠ 32 then .error .accessWidth
  else if off % 4 ≠ 0 then .error .misaligned
  else if 0x300 ≤ off then .error .outsideWindow
  else if off = 0x000 then .ok .ctrl
  else if off = 0x004 then .ok .status
  else if off = 0x008 then .ok .srcAddr
  else if off = 0x00C then .ok .nblocks
  else if off = 0x010 then .ok .faultInfo
  else if off = 0x014 then .ok .instr
  else if 0x020 ≤ off ∧ off < 0x040 then .ok (.state (Fin.ofNat 8 ((off - 0x020) / 4)))
  else if 0x100 ≤ off then .ok (.vreg (Fin.ofNat 32 ((off - 0x100) / 16)) (Fin.ofNat 4 ((off - 0x100) / 4)))
  else .error .reservedOffset

/-- A CTRL write: INIT first, then START; ignored as a whole while BUSY = 1 or FAULT = 1 (10_state R39). -/
def writeCtrl (v : Word) (s : State) : State :=
  if s.busy || s.fault then s
  else
    let s := if v.getLsbD 1 then initHash s else s
    if v.getLsbD 0 then start s else s

/-- An INSTR write executes the word as one instruction; ignored while FAULT = 1; a word of no row raises
UNDEFINED_INSTRUCTION with itself as the info word (30_encoding R110, 60_exceptions R261). Log 15. -/
def writeInstr (w : Word) (s : State) : Host.Outcome State Fault Refusal :=
  if s.fault then .next s
  else match decode w with
    | .ok i => exec i s
    | .error (.undefined u) => .next (raiseFault .undefinedInstruction u s)

/-- A write that is ignored while BUSY = 1 (10_state R45). -/
def unlessBusy (f : State) (s : State) : State := if s.busy then s else f

/-- A 32-bit write to a register of the block (10_state R36..R45). -/
def writeReg (r : BlockReg) (v : Word) (s : State) : Host.Outcome State Fault Refusal :=
  match r with
  | .ctrl => .next (writeCtrl v s)
  | .status => .next s
  | .srcAddr => .next (unlessBusy { s with srcAddr := v } s)
  | .nblocks => .next (unlessBusy { s with nblocks := v } s)
  | .faultInfo => .next s
  | .instr => writeInstr v s
  | .state i => .next (unlessBusy (s.writeHash i v) s)
  | .vreg r e => .next (s.writeV r ((s.readV r).setElem e v))

/-- A 32-bit read of a register of the block, its value left in lastRead. Only a STATE read while BUSY = 1 draws a free
value; no read changes the unit (10_state R36..R45, 20_memory R76). Log 5, 6. -/
def readReg (r : BlockReg) (s : State) : State :=
  match r with
  | .ctrl => { s with lastRead := 0 }
  | .status => { s with lastRead := s.statusWord }
  | .srcAddr => { s with lastRead := s.srcAddr }
  | .nblocks => { s with lastRead := s.nblocks }
  | .faultInfo => { s with lastRead := s.faultInfo }
  | .instr => { s with lastRead := 0 }
  | .state i =>
    if s.busy then { s with lastRead := Config.freeWord s.draws, draws := s.draws + 1 }
    else { s with lastRead := s.readHash i }
  | .vreg r e => { s with lastRead := (s.readV r).elem e }

/-- The host writes the register block at an offset (00_scope R9 HostWrite32, 10_state R46). -/
def hostWrite (off width : Nat) (v : Word) (s : State) : Host.Outcome State Fault Refusal :=
  match regAt off width with
  | .ok r => writeReg r v s
  | .error e => .refused e

/-- The host reads the register block at an offset (00_scope R9 HostRead32, 10_state R46). -/
def hostRead (off width : Nat) (s : State) : Host.Outcome State Fault Refusal :=
  match regAt off width with
  | .ok r => .next (readReg r s)
  | .error e => .refused e

/-- A host address lies in the window of 0x300 bytes at UNIT_BASE (10_state R43). -/
def inWindow (unitBase addr : Nat) : Bool := unitBase ≤ addr && addr < unitBase + 0x300

/-- The offset from UNIT_BASE of a host address; an address outside the window is refused (10_state R43, R46; 93 U9). -/
def addrOffset (unitBase addr : Nat) : Except Refusal Nat :=
  if inWindow unitBase addr then .ok (addr - unitBase) else .error .outsideWindow

/-- The host writes the register block at an address of its own address space (10_state R43). Log 8. -/
def hostWriteAt (unitBase addr width : Nat) (v : Word) (s : State) : Host.Outcome State Fault Refusal :=
  match addrOffset unitBase addr with
  | .ok off => hostWrite off width v s
  | .error e => .refused e

/-- The host reads the register block at an address of its own address space (10_state R43). Log 8. -/
def hostReadAt (unitBase addr width : Nat) (s : State) : Host.Outcome State Fault Refusal :=
  match addrOffset unitBase addr with
  | .ok off => hostRead off width s
  | .error e => .refused e

end Sys2Proof.Machine
end

