-- ==== Sys2Proof/Machine/Events.lean ====
section
/-! DEFINITION. The transitions of the two agents and of reset, one event at a time, in the order the schedule gives
(10_state R30, 20_memory R80). memSize is MEM_SIZE, which the model takes as an argument (00_scope R5). -/

namespace Sys2Proof.Machine

/-- An address is a byte of the active command's blocks (20_memory R82). SRC_ADDR and NBLOCKS cannot be written while
BUSY = 1 (10_state R45), so they are as latched at START. -/
def State.inActiveBlocks (s : State) (a : Nat) : Bool :=
  s.busy && s.srcAddr.toNat ≤ a && a < s.srcAddr.toNat + 64 * s.nblocks.toNat

/-- The host writes a byte of message memory (20_memory R70, R82). Log 11, 12, 18. -/
def hostMemWrite (memSize : Nat) (a : Nat) (b : Byte) (s : State) : Host.Outcome State Fault Refusal :=
  if memSize ≤ a then .fault .outsideMemory
  else if s.inActiveBlocks a then .refused .activeBlockWrite
  else .next { s with mem := Memory.write s.mem a b }

/-- The host reads a byte of message memory, which is left in lastByte (10_state R30). Log 5, 12, 18. -/
def hostMemRead (memSize : Nat) (a : Nat) (s : State) : Host.Outcome State Fault Refusal :=
  if memSize ≤ a then .fault .outsideMemory
  else .next { s with lastByte := Memory.read s.mem a }

/-- One event. -/
def takeEvent (memSize : Nat) (e : Event) (s : State) : Host.Outcome State Fault Refusal :=
  match e with
  | .regWrite off width v => hostWrite off width v s
  | .regRead off width => hostRead off width s
  | .memWrite a b => hostMemWrite memSize a b s
  | .memRead a => hostMemRead memSize a s
  | .engine => .next (engineTurn memSize s)
  | .reset => .next (takeReset s)

/-- One step in a memory of memSize bytes: the next event of the schedule; with none left, the engine's turn. Log 4, 10. -/
def stepWith (memSize : Nat) (s : State) : Host.Outcome State Fault Refusal :=
  match s.schedule with
  | [] => .next (engineTurn memSize s)
  | e :: rest => takeEvent memSize e { s with schedule := rest }

end Sys2Proof.Machine
end

