-- ==== Sys2Proof/Machine/Step.lean ====
section
/-! DEFINITION. One step of the machine, and how an instruction word is placed for the next step to run. -/

namespace Sys2Proof.Machine

/-- One step: one event of the single total order (20_memory R80), with MEM_SIZE the open parameter of 00_scope R5. -/
def step (s : State) : Host.Outcome State Fault Refusal := stepWith Config.memSize s

/-- s with the host's next event a write of the word to INSTR, and with no fault recorded, since a unit with FAULT = 1
ignores INSTR writes (10_state R42). Bits at or above nbits are 0. Log 9. -/
def State.withFetchWord (s : State) (nbits w : Nat) : State :=
  { s with schedule := .regWrite 0x014 32 (BitVec.ofNat 32 (w % 2 ^ nbits)) :: s.schedule,
           fault := false, cause := .none, faultInfo := 0 }

end Sys2Proof.Machine
end

