-- ==== Sys2Proof/Machine/Driver.lean ====
section
/-! DEFINITION. The host driver's contract (44_host_driver): padding, block segmentation, the accesses that drive one
command, digest serialisation, and the same block on the instruction port. It binds the host, not the unit. Log 14. -/

namespace Sys2Proof.Machine

/-- `BE32(x)`: the four bytes of a word, the high byte first (44_host_driver R244). -/
def be32 (x : Word) : List Byte :=
  [x.extractLsb' 24 8, x.extractLsb' 16 8, x.extractLsb' 8 8, x.extractLsb' 0 8]

/-- `BE64(x)`: the 8-byte big-endian encoding of x (44_host_driver R241). -/
def be64 (x : Nat) : List Byte :=
  (List.range 8).map fun k => BitVec.ofNat 8 (x >>> (8 * (7 - k)))

/-- `z = (55 − L) mod 64` (44_host_driver R241). -/
def zeroFill (len : Nat) : Nat := ((55 - (len : Int)) % 64).toNat

/-- `P = data || 0x80 || 0x00 * z || BE64(8·L)` (44_host_driver R241). -/
def padMessage (data : List Byte) : List Byte :=
  data ++ [0x80] ++ List.replicate (zeroFill data.length) 0 ++ be64 (8 * data.length)

/-- The number of blocks of the padded message (44_host_driver R242). -/
def blockCount (len : Nat) : Nat := if len % 64 ≤ 55 then len / 64 + 1 else len / 64 + 2

/-- Block b of a byte sequence. -/
def blockOf (p : List Byte) (b : Nat) : Block := Vector.ofFn fun k : Fin 64 => p.getD (64 * b + k.val) 0

/-- The whole blocks of a byte sequence, in order. -/
def blocksOf (p : List Byte) : List Block := (List.range (p.length / 64)).map (blockOf p)

/-- The digest: the eight state words, each big-endian, in the order STATE0..STATE7 (20_memory R73, 44_host_driver
R244). -/
def digest (h : HashState) : List Byte := h.toList.flatMap be32

/-- The blocks of a message folded into H0, in order (43_compression_engine R209, 44_host_driver R243). -/
def hashBlocks (h : HashState) (bs : List Block) : HashState := bs.foldl compressBlock h

/-- `ComputeHash(data)` (44_host_driver R240); a message of 2^61 bytes or more is refused (R245). -/
def computeHash (data : List Byte) : Except Refusal (List Byte) :=
  if 2 ^ 61 ≤ data.length then .error .messageTooLong
  else .ok (digest (hashBlocks h0 (blocksOf (padMessage data))))

/-- The host places bytes at message-memory address a (44_host_driver R243 step 1). -/
def placeEvents : Nat → List Byte → List Event
  | _, [] => []
  | a, b :: bs => .memWrite a b :: placeEvents (a + 1) bs

/-- The host starts a command of n blocks at a; ctrl is 3 for INIT then START, 1 for START only (44_host_driver R243
steps 2..4 and the split into several commands). -/
def commandEvents (a n ctrl : Word) : List Event :=
  [.regWrite 0x008 32 a, .regWrite 0x00C 32 n, .regWrite 0x000 32 ctrl]

/-- One poll of STATUS (44_host_driver R243 step 5). -/
def pollEvent : Event := .regRead 0x004 32

/-- The reads of STATE0..7 (44_host_driver R243 step 7). -/
def readStateEvents : List Event := (List.range 8).map fun i => .regRead (0x020 + 4 * i) 32

/-- The whole of 44_host_driver R243 for one message at address a as one command, with the engine given exactly the turns
it needs and one poll after them. The loop of step 5 is the host's: any number of polls may stand between the turns. -/
def hashEvents (a : Nat) (data : List Byte) : List Event :=
  placeEvents a (padMessage data) ++
    commandEvents (BitVec.ofNat 32 a) (BitVec.ofNat 32 (blockCount data.length)) 3 ++
    List.replicate (blockCount data.length) .engine ++ [pollEvent] ++ readStateEvents

/-- The 16 bytes from 16j on loaded as little-endian lanes, as a host leaves them in the VREG window (20_memory R72). -/
def leVec (b : Block) (j : Fin 4) : Vec :=
  ⟨b[16 * j.val + 3] ++ b[16 * j.val + 2] ++ b[16 * j.val + 1] ++ b[16 * j.val],
   b[16 * j.val + 7] ++ b[16 * j.val + 6] ++ b[16 * j.val + 5] ++ b[16 * j.val + 4],
   b[16 * j.val + 11] ++ b[16 * j.val + 10] ++ b[16 * j.val + 9] ++ b[16 * j.val + 8],
   b[16 * j.val + 15] ++ b[16 * j.val + 14] ++ b[16 * j.val + 13] ++ b[16 * j.val + 12]⟩

/-- The instructions of quad-round step i on the port: wk in V4, stateA_before in V5, msg_j in V(6+j), K group i in
V(16+i), state0 in V0, state1 in V1 (44_host_driver R248, 95_test_vectors P3). -/
def portStep (i : Fin 16) : List Instr :=
  let m (k : Nat) : VReg := Fin.ofNat 32 (6 + (i.val + k) % 4)
  [.add 4 (m 0) (Fin.ofNat 32 (16 + i.val))] ++
    (if i.val < 12 then [.sha256su0 (m 0) (m 1), .sha256su1 (m 0) (m 2) (m 3)] else []) ++
    [.mov 5 0, .sha256h 0 1 4, .sha256h2 1 5 4]

/-- One whole block on the instruction port: byte swap of the little-endian lanes, snapshots, sixteen steps, feed-forward
(44_host_driver R248, 95_test_vectors P3). -/
def portProgram : List Instr :=
  [.rev32 6 6, .rev32 7 7, .rev32 8 8, .rev32 9 9, .mov 2 0, .mov 3 1] ++
    (List.finRange 16).flatMap portStep ++ [.add 0 0 2, .add 1 1 3]

/-- The words of a list of instructions written to INSTR one after the other (10_state R42). -/
def portEvents (is : List Instr) : List Event := is.map fun i => .regWrite 0x014 32 (encode i)

/-- Instructions executed one after the other, stopping where one does not give a next state. -/
def execAll : List Instr → State → Host.Outcome State Fault Refusal
  | [], s => .next s
  | i :: is, s =>
    match exec i s with
    | .next t => execAll is t
    | .fault r => .fault r
    | .refused r => .refused r

/-! ### The host at work: the accesses of 44_host_driver R243 and R248, each chosen by what the ones before it returned -/

/-- Why the host's work ends without a result. -/
inductive DriverStop where
  /-- The STATUS the last poll returned has FAULT = 1 (44_host_driver R243 step 6). -/
  | unitFault (status : Word)
  /-- The polls of the run are used up and the last still had BUSY = 1 (step 5 goes on). -/
  | stillBusy
  /-- An access ended in a fault of the model. -/
  | modelFault (r : Fault)
  /-- An access, or the whole message (R245), is refused. -/
  | refused (r : Refusal)
deriving DecidableEq, Repr

/-- An outcome of the machine as the host's work meets it. -/
def ofOutcome : Host.Outcome State Fault Refusal → Except DriverStop State
  | .next s => .ok s
  | .fault r => .error (.modelFault r)
  | .refused r => .error (.refused r)

/-- Events one after the other, in a memory of memSize bytes. -/
def driveAll (memSize : Nat) : List Event → State → Except DriverStop State
  | [], s => .ok s
  | e :: es, s =>
    match ofOutcome (takeEvent memSize e s) with
    | .ok t => driveAll memSize es t
    | .error r => .error r

/-- `HostRead32(off)` with the word it returns (00_scope R9). -/
def driveRead (memSize off : Nat) (s : State) : Except DriverStop (Word × State) :=
  match driveAll memSize [.regRead off 32] s with
  | .ok t => .ok (t.lastRead, t)
  | .error r => .error r

/-- Reads at several offsets, in order, with the words they return. -/
def driveReads (memSize : Nat) : List Nat → State → Except DriverStop (List Word × State)
  | [], s => .ok ([], s)
  | off :: offs, s =>
    match driveRead memSize off s with
    | .ok (w, t) =>
      match driveReads memSize offs t with
      | .ok (ws, u) => .ok (w :: ws, u)
      | .error r => .error r
    | .error r => .error r

/-- `repeat s = HostRead32(0x004) until s[0] == 0` (44_host_driver R243 step 5), with the STATUS word that ended it. The k-th
number of the list is how many turns the engine has before the k-th poll; the host polls at most as often as the list is
long. Log 14. -/
def pollUntilIdle (memSize : Nat) : List Nat → State → Except DriverStop (Word × State)
  | [], _ => .error .stillBusy
  | n :: ns, s =>
    match driveAll memSize (List.replicate n .engine) s with
    | .ok t =>
      match driveRead memSize 0x004 t with
      | .ok (w, u) => if w.getLsbD 0 then pollUntilIdle memSize ns u else .ok (w, u)
      | .error r => .error r
    | .error r => .error r

/-- `require s[1] == 0` on the STATUS word read (44_host_driver R243 step 6). -/
def requireNoFault (status : Word) (s : State) : Except DriverStop State :=
  if status.getLsbD 1 then .error (.unitFault status) else .ok s

/-- One part of a padded message: where the host puts its blocks, how many, and the engine's turns before each poll of its
command. -/
structure Part where
  addr : Nat
  blocks : Nat
  turns : List Nat
deriving DecidableEq, Repr

/-- The host places the parts of a padded message, each at its own address (44_host_driver R243 step 1 and the split over
several commands). -/
def placeParts : List Part → List Byte → List Event
  | [], _ => []
  | p :: ps, bytes => placeEvents p.addr (bytes.take (64 * p.blocks)) ++ placeParts ps (bytes.drop (64 * p.blocks))

/-- One command over one part: steps 2 to 6 of 44_host_driver R243. -/
def driveCommand (memSize : Nat) (ctrl : Word) (p : Part) (s : State) : Except DriverStop State :=
  match driveAll memSize (commandEvents (BitVec.ofNat 32 p.addr) (BitVec.ofNat 32 p.blocks) ctrl) s with
  | .ok t =>
    match pollUntilIdle memSize p.turns t with
    | .ok (w, u) => requireNoFault w u
    | .error r => .error r
  | .error r => .error r

/-- The commands after the first: START without INIT, so that each takes up the chaining value of the one before
(44_host_driver R243, 43_compression_engine R208). -/
def driveMore (memSize : Nat) : List Part → State → Except DriverStop State
  | [], s => .ok s
  | p :: ps, s =>
    match driveCommand memSize 1 p s with
    | .ok t => driveMore memSize ps t
    | .error r => .error r

/-- All the commands of a message: the first alone uses INIT (44_host_driver R243). -/
def driveParts (memSize : Nat) (first : Part) (more : List Part) (s : State) : Except DriverStop State :=
  match driveCommand memSize 3 first s with
  | .ok t => driveMore memSize more t
  | .error r => .error r

/-- The offsets of STATE0..7 (44_host_driver R243 step 7). -/
def stateOffsets : List Nat := (List.range 8).map fun i => 0x020 + 4 * i

/-- The whole of 44_host_driver R243, steps 1 to 8, as one command or several: the digest is made of the words the host read.
A message of 2^61 bytes or more is refused (R245). -/
def driveHash (memSize : Nat) (first : Part) (more : List Part) (data : List Byte) (s : State) :
    Except DriverStop (List Byte × State) :=
  if 2 ^ 61 ≤ data.length then .error (.refused .messageTooLong)
  else
    match driveAll memSize (placeParts (first :: more) (padMessage data)) s with
    | .ok t =>
      match driveParts memSize first more t with
      | .ok u =>
        match driveReads memSize stateOffsets u with
        | .ok (ws, x) => .ok (ws.flatMap be32, x)
        | .error r => .error r
      | .error r => .error r
    | .error r => .error r

/-- The host writes the four lanes of a vector register through the VREG window (10_state R44). -/
def vregWriteEvents (r : Nat) (x : Vec) : List Event :=
  [.regWrite (0x100 + 16 * r) 32 x.l0, .regWrite (0x100 + 16 * r + 4) 32 x.l1,
   .regWrite (0x100 + 16 * r + 8) 32 x.l2, .regWrite (0x100 + 16 * r + 12) 32 x.l3]

/-- The host writes the chaining value into V0, V1 (44_host_driver R248, 95_test_vectors P3). -/
def portStateEvents (h : HashState) : List Event :=
  vregWriteEvents 0 (state0Of h) ++ vregWriteEvents 1 (state1Of h)

/-- The host writes a block into V6..V9 as little-endian lanes (44_host_driver R248, 20_memory R72). -/
def portBlockEvents (b : Block) : List Event :=
  (List.finRange 4).flatMap fun j => vregWriteEvents (6 + j.val) (leVec b j)

/-- The host writes the round constants into V16..V31, once for all blocks (44_host_driver R248, 70_reset_and_hazards
R303). -/
def portConstantEvents : List Event := (List.finRange 16).flatMap fun g => vregWriteEvents (16 + g.val) (kGroup g)

/-- The offsets of the lanes of V0 and V1 (44_host_driver R248). -/
def portResultOffsets : List Nat := (List.range 8).map fun k => 0x100 + 4 * k

/-- Blocks after the K and the chaining value are in place: for each, the block is written and the 96 words are run; V0, V1
carry the chaining value from one to the next (95_test_vectors P3, last sentence). -/
def drivePortBlocks (memSize : Nat) : List Block → State → Except DriverStop State
  | [], s => .ok s
  | b :: bs, s =>
    match driveAll memSize (portBlockEvents b ++ portEvents portProgram) s with
    | .ok t => drivePortBlocks memSize bs t
    | .error r => .error r

/-- The whole of 44_host_driver R248: the host writes K and the state, then for each block the block and the program of
95_test_vectors P3, and reads the new state from V0 and V1. CompressBlock is the case of one block. -/
def drivePort (memSize : Nat) (h : HashState) (bs : List Block) (s : State) : Except DriverStop (List Word × State) :=
  match driveAll memSize (portConstantEvents ++ portStateEvents h) s with
  | .ok t =>
    match drivePortBlocks memSize bs t with
    | .ok u => driveReads memSize portResultOffsets u
    | .error r => .error r
  | .error r => .error r

end Sys2Proof.Machine
end

