-- ==== Sys2Proof/Machine/Platform.lean ====
section
/-! DEFINITION. A platform of NUM_UNITS units, each with its register block at its own UNIT_BASE (00_scope R5, 10_state R43,
60_exceptions R271). The units share nothing. A unit's own rules are in the offsets of its block; here the host's addresses
are decoded. Log 8, 19. -/

namespace Sys2Proof.Machine

/-- One event on a platform of n units. -/
inductive PlatformEvent (n : Nat) where
  /-- The host writes v at an address of its own address space, with an access of `width` bits. -/
  | busWrite (addr width : Nat) (v : Word)
  /-- The host reads at an address of its own address space, with an access of `width` bits. -/
  | busRead (addr width : Nat)
  /-- An event of unit u by itself: its engine's turn, its reset, a byte of its message memory. -/
  | atUnit (u : Fin n) (e : Event)
deriving DecidableEq, Repr

/-- The unit in whose window an address lies, if any. -/
def unitAt {n : Nat} (unitBase : Nat → Nat) (addr : Nat) : Option (Fin n) :=
  (List.finRange n).find? fun u => inWindow (unitBase u.val) addr

/-- Something done to unit u alone. -/
def onUnit {n : Nat} (u : Fin n) (f : State → Host.Outcome State Fault Refusal) (p : Vector State n) :
    Host.Outcome (Vector State n) Fault Refusal :=
  match f p[u.val] with
  | .next s => .next (p.set u.val s)
  | .fault r => .fault r
  | .refused r => .refused r

/-- One event on a platform, with the parameters of 00_scope R5 as arguments: n is NUM_UNITS, memSize MEM_SIZE, and unitBase
the UNIT_BASE of each unit. An address in no unit's window is no access to a unit, and is refused (93 U9). DESIGN CHOICE: one
MEM_SIZE for all the units. Log 19. -/
def platformWith {n : Nat} (memSize : Nat) (unitBase : Nat → Nat) (e : PlatformEvent n) (p : Vector State n) :
    Host.Outcome (Vector State n) Fault Refusal :=
  match e with
  | .busWrite addr width v =>
    match unitAt unitBase addr with
    | some u => onUnit u (hostWriteAt (unitBase u.val) addr width v) p
    | none => .refused .outsideWindow
  | .busRead addr width =>
    match unitAt unitBase addr with
    | some u => onUnit u (hostReadAt (unitBase u.val) addr width) p
    | none => .refused .outsideWindow
  | .atUnit u e => onUnit u (takeEvent memSize e) p

/-- One event on the platform, with its open parameters (00_scope R5). -/
def platformStep (e : PlatformEvent Config.numUnits) (p : Vector State Config.numUnits) :
    Host.Outcome (Vector State Config.numUnits) Fault Refusal :=
  platformWith Config.memSize Config.unitBase e p

/-- The platform right after reset: every unit is. DESIGN CHOICE: every unit counts its draws from 0 and draws from the one
sequence of free values, so units with equal counters draw equal values. Log 19. -/
def platformReset : Vector State Config.numUnits := Vector.replicate Config.numUnits State.reset

end Sys2Proof.Machine
end

