-- ==== Sys2Proof/Machine/Scalar.lean ====
section
/-! DEFINITION. The scalar form of the compression, the form CompressBlock is held to (43_compression_engine R210): the
schedule recurrence (41_sha256_schedule R156) and the standard round (42_sha256_hash R177). The machine does not use it. -/

namespace Sys2Proof.Machine

/-- `W_t` from the words before it, t = the number of words so far (41_sha256_schedule R156). -/
def nextScheduleWord (ws : List Word) : Word :=
  let t := ws.length
  sigma1 (ws.getD (t - 2) 0) + ws.getD (t - 7) 0 + sigma0 (ws.getD (t - 15) 0) + ws.getD (t - 16) 0

/-- n more words of the recurrence. -/
def extendSchedule : Nat → List Word → List Word
  | 0, ws => ws
  | n + 1, ws => extendSchedule n (ws ++ [nextScheduleWord ws])

/-- W[0..63] of a block: its 16 big-endian words and 48 of the recurrence (43_compression_engine R210). -/
def messageSchedule (b : Block) : List Word := extendSchedule 48 ((List.finRange 16).map (blockWord b))

/-- One standard round with input w (42_sha256_hash R177). -/
def scalarRound (h : HashState) (w : Word) : HashState :=
  let t1 := h[7] + bigSigma1 h[4] + ch h[4] h[5] h[6] + w
  let t2 := bigSigma0 h[0] + maj h[0] h[1] h[2]
  #v[t1 + t2, h[0], h[1], h[2], h[3] + t1, h[4], h[5], h[6]]

/-- 64 rounds with inputs W[t] + K[t], then the starting state added back word by word (43_compression_engine R210). -/
def scalarCompress (h : HashState) (b : Block) : HashState :=
  let ws := messageSchedule b
  let r := (List.finRange 64).foldl (fun h t => scalarRound h (ws.getD t.val 0 + kConst t)) h
  Vector.zipWith (· + ·) r h

end Sys2Proof.Machine
end

