-- ==== Sys2Proof/Safety.lean ====
section
/-! DEFINITION. What a safe run is and which states runs from reset reach, in the terms the statements use. -/

namespace Sys2Proof.Machine

/-- The next state of an outcome, if it is one. -/
def nextState : Host.Outcome State Fault Refusal → Option State
  | .next s => some s
  | .fault _ => none
  | .refused _ => none

/-- s with e as its next event. Every state with something scheduled is such a state. -/
def offer (e : Event) (s : State) : State := { s with schedule := e :: s.schedule }

/-- No fault is recorded: what a claim about a finished command needs (60_exceptions R263). -/
def State.faultFree (s : State) : Prop := s.fault = false

/-- The unit is idle: BUSY = 0 and FAULT = 0 (70_reset_and_hazards R301). -/
def State.idle (s : State) : Prop := s.busy = false ∧ s.fault = false

/-- The fault record agrees with itself: CAUSE and FAULT_INFO are 0 until a fault, and a fault has a cause and has
ended the command (10_state R40, R41; 60_exceptions R260, R263). -/
structure FaultRecordInv (s : State) : Prop where
  cause_none : s.fault = false → s.cause = .none
  info_zero : s.fault = false → s.faultInfo = 0
  cause_some : s.fault = true → s.cause ≠ .none
  not_busy : s.fault = true → s.busy = false

/-- The command under way is where its registers say: the blocks done and the blocks left make up the command latched at
START, and at least one is left (10_state R48; 43_compression_engine R206, R207). -/
structure CommandInv (s : State) : Prop where
  remain_pos : s.busy = true → 0 < s.remain.toNat
  remain_le : s.busy = true → s.remain.toNat ≤ s.nblocks.toNat
  progress : s.busy = true → s.curAddr + 64 * s.remain.toNat = s.srcAddr.toNat + 64 * s.nblocks.toNat

/-- Message memory is in canonical form and lists only bytes that exist (20_memory R70). -/
structure MemoryInv (memSize : Nat) (s : State) : Prop where
  wf : Memory.wf s.mem = true
  inside : ∀ c ∈ s.mem, c.1 < memSize

/-- The invariant of the machine. -/
structure Inv (memSize : Nat) (s : State) : Prop where
  record : FaultRecordInv s
  command : CommandInv s
  memory : MemoryInv memSize s

end Sys2Proof.Machine
end

