-- ==== Sys2Proof/Certificates/Slice0/Obligations.lean ====
section
/-! DEFINITION. The statements about the unit, for the provers. A statement speaks of every state unless it says
otherwise; `offer e s` is s with e as its next event, and a run goes through `step`. -/

open Sys2Proof Sys2Proof.Machine

/-! ### Encoding -/

/-- 30_encoding R101..R103: every instruction, with every operand at every value, decodes from its word. -/
def Obligations.DecodeOfEncode : Prop := ∀ i : Instr, decode (encode i) = .ok i

/-- 30_encoding R101..R103: a word that decodes is the word of its instruction, so no two words are one instruction. -/
def Obligations.EncodeOfDecode : Prop := ∀ (w : Word) (i : Instr), decode w = .ok i → encode i = w

/-- 30_encoding R103, with the operand fields of R102: the seven rows, and what a word of no row does. -/
def Obligations.OpcodeMap : Prop :=
  ∀ w : Word,
    let d : VReg := ⟨w.toNat % 32, Nat.mod_lt _ (by decide)⟩
    let n : VReg := ⟨w.toNat / 32 % 32, Nat.mod_lt _ (by decide)⟩
    let m : VReg := ⟨w.toNat / 65536 % 32, Nat.mod_lt _ (by decide)⟩
    (w &&& 0xFFE0FC00#32 = 0x5E004000#32 → decode w = .ok (.sha256h d n m)) ∧
    (w &&& 0xFFE0FC00#32 = 0x5E005000#32 → decode w = .ok (.sha256h2 d n m)) ∧
    (w &&& 0xFFE0FC00#32 = 0x5E006000#32 → decode w = .ok (.sha256su1 d n m)) ∧
    (w &&& 0xFFFFFC00#32 = 0x5E282800#32 → decode w = .ok (.sha256su0 d n)) ∧
    (w &&& 0xFFE0FC00#32 = 0x4EA08400#32 → decode w = .ok (.add d n m)) ∧
    (w &&& 0xFFE0FC00#32 = 0x4EA01C00#32 → decode w = .ok (.orr d n m)) ∧
    (w &&& 0xFFFFFC00#32 = 0x6E200800#32 → decode w = .ok (.rev32 d n)) ∧
    (w &&& 0xFFE0FC00#32 ≠ 0x5E004000#32 → w &&& 0xFFE0FC00#32 ≠ 0x5E005000#32 →
      w &&& 0xFFE0FC00#32 ≠ 0x5E006000#32 → w &&& 0xFFFFFC00#32 ≠ 0x5E282800#32 →
      w &&& 0xFFE0FC00#32 ≠ 0x4EA08400#32 → w &&& 0xFFE0FC00#32 ≠ 0x4EA01C00#32 →
      w &&& 0xFFFFFC00#32 ≠ 0x6E200800#32 →
        decode w = .error (.undefined w) ∧
        ∀ s : State, s.fault = false →
          step (offer (.regWrite 0x014 32 w) s) = .next (raiseFault .undefinedInstruction w s)) ∧
    opcodeTable.Pairwise fun r r' => ¬ (w &&& r.mask = r.pattern ∧ w &&& r'.mask = r'.pattern)

/-- 95_test_vectors 5.8, 30_encoding R104: words of the spec's examples, and the instructions they are or that they are
undefined. -/
def Obligations.ExampleWordsDecode : Prop :=
  decode 0x5E044020#32 = .ok (.sha256h 0 1 4) ∧
  decode 0x5E0450A1#32 = .ok (.sha256h2 1 5 4) ∧
  decode 0x5E136250#32 = .ok (.sha256su1 16 18 19) ∧
  decode 0x5E282A10#32 = .ok (.sha256su0 16 16) ∧
  decode 0x4EA28420#32 = .ok (.add 0 1 2) ∧
  decode 0x4EA21C20#32 = .ok (.orr 0 1 2) ∧
  decode 0x4EA01C05#32 = .ok (.mov 5 0) ∧
  decode 0x6E200820#32 = .ok (.rev32 0 1) ∧
  ∀ w ∈ [0x5E007000#32, 0x5E404000#32, 0x5E283800#32, 0x5E204000#32, 0x5E004400#32, 0x5E00C000#32,
         0x0EA08400#32, 0x4E208400#32, 0x00000000#32, 0xFFFFFFFF#32],
    decode w = .error (.undefined w)

/-- 30_encoding R105, R106: assembling the spelling of an instruction gives it back; what assembles has the mnemonic's
arrangements and registers V0..V31, in order; the MOV line of every d, n assembles to ORR with Rm = Rn. The form of a line is
the model's (log 17). -/
def Obligations.AssemblerSpelling : Prop :=
  (∀ i : Instr, assemble i.toAsm = .ok i) ∧
  (∀ d n : VReg, assemble ⟨.mov, [⟨d.val, .b16⟩, ⟨n.val, .b16⟩]⟩ = .ok (.orr d n n)) ∧
  ∀ (l : AsmLine) (i : Instr), assemble l = .ok i →
    l.ops.map (·.arr) = l.mnemonic.shape ∧ (∀ o ∈ l.ops, o.reg < 32) ∧
    i.regs.map (·.val) = l.ops.map (·.reg) ++ (if l.mnemonic = .mov then (l.ops.map (·.reg)).drop 1 else [])

/-! ### Lanes and words -/

/-- 00_scope R7, 10_state R32: lane e is bits 32e+31..32e, the literal is its four lanes, and a lane write writes that lane
only. -/
def Obligations.VectorLanes : Prop :=
  (∀ (v : Vec) (e : Fin 4), v.elem e = v.toBits.extractLsb' (32 * e.val) 32) ∧
  (∀ l0 l1 l2 l3 : Word, (Vec.mk l0 l1 l2 l3).toBits = l3 ++ l2 ++ l1 ++ l0) ∧
  (∀ (v : Vec) (e f : Fin 4) (x : Word), (v.setElem e x).elem f = if f = e then x else v.elem f) ∧
  (∀ x : BitVec 128, (Vec.ofBits x).toBits = x) ∧ ∀ v : Vec, Vec.ofBits v.toBits = v

/-- 00_scope R8: the operators on words, each by its value or its bits. -/
def Obligations.WordOperators : Prop :=
  ∀ x y z : Word,
    (x + y).toNat = (x.toNat + y.toNat) % 2 ^ 32 ∧
    (x + y + z).toNat = (x.toNat + y.toNat + z.toNat) % 2 ^ 32 ∧
    (∀ k < 32, (x &&& y).getLsbD k = (x.getLsbD k && y.getLsbD k) ∧ (x ||| y).getLsbD k = (x.getLsbD k || y.getLsbD k) ∧
      (x ^^^ y).getLsbD k = xor (x.getLsbD k) (y.getLsbD k) ∧ (~~~x).getLsbD k = !x.getLsbD k) ∧
    (∀ n < 32, (shr x n).toNat = x.toNat / 2 ^ n) ∧
    (∀ n, 1 ≤ n → n < 32 → ∀ k < 32, (ror x n).getLsbD k = x.getLsbD ((k + n) % 32)) ∧
    ∀ k : Fin 4, (bswap32 x).extractLsb' (8 * k.val) 8 = x.extractLsb' (24 - 8 * k.val) 8

/-! ### The instructions -/

/-- 40_vector_basic R130: ADD, its word, its lanes, and that it writes V[d] alone. -/
def Obligations.AddLanes : Prop :=
  ∀ (d n m : VReg) (s : State),
    (encode (.add d n m)).toNat = 0x4EA08400 + m.val * 2 ^ 16 + n.val * 2 ^ 5 + d.val ∧
    ∃ t, exec (.add d n m) s = .next t ∧ t = s.writeV d (t.readV d) ∧
      ∀ e, (t.readV d).elem e = (s.readV n).elem e + (s.readV m).elem e

/-- 40_vector_basic R131: ORR, its word, its 128 bits, and that it writes V[d] alone. -/
def Obligations.OrrBits : Prop :=
  ∀ (d n m : VReg) (s : State),
    (encode (.orr d n m)).toNat = 0x4EA01C00 + m.val * 2 ^ 16 + n.val * 2 ^ 5 + d.val ∧
    ∃ t, exec (.orr d n m) s = .next t ∧ t = s.writeV d (t.readV d) ∧
      (t.readV d).toBits = (s.readV n).toBits ||| (s.readV m).toBits

/-- 40_vector_basic R132: MOV is a word of ORR, copies V[n] to V[d], and with d = n changes nothing. -/
def Obligations.MovCopies : Prop :=
  ∀ (d n : VReg) (s : State),
    (encode (.mov d n)).toNat = 0x4EA01C00 + n.val * 2 ^ 16 + n.val * 2 ^ 5 + d.val ∧
    exec (.mov d n) s = .next (s.writeV d (s.readV n)) ∧
    exec (.mov n n) s = .next s

/-- 40_vector_basic R133: REV32, its word, the bytes of each lane reversed, V[d] alone written, its own inverse. -/
def Obligations.Rev32Bytes : Prop :=
  (∀ (d n : VReg) (s : State),
    (encode (.rev32 d n)).toNat = 0x6E200800 + n.val * 2 ^ 5 + d.val ∧
    ∃ t, exec (.rev32 d n) s = .next t ∧ t = s.writeV d (t.readV d) ∧
      ∀ (e k : Fin 4), ((t.readV d).elem e).extractLsb' (8 * k.val) 8 =
        ((s.readV n).elem e).extractLsb' (8 * (3 - k.val)) 8) ∧
  ∀ v, vecRev32 (vecRev32 v) = v

/-- 41_sha256_schedule R152, R153: SHA256SU0, its word, its lanes, and that it writes V[d] alone. -/
def Obligations.Sha256su0Lanes : Prop :=
  ∀ (d n : VReg) (s : State),
    (encode (.sha256su0 d n)).toNat = 0x5E282800 + n.val * 2 ^ 5 + d.val ∧
    ∃ t, exec (.sha256su0 d n) s = .next t ∧ t = s.writeV d (t.readV d) ∧ t.readV d = su0 (s.readV d) (s.readV n) ∧
      (t.readV d).elem 0 = (s.readV d).elem 0 + sigma0 ((s.readV d).elem 1) ∧
      (t.readV d).elem 1 = (s.readV d).elem 1 + sigma0 ((s.readV d).elem 2) ∧
      (t.readV d).elem 2 = (s.readV d).elem 2 + sigma0 ((s.readV d).elem 3) ∧
      (t.readV d).elem 3 = (s.readV d).elem 3 + sigma0 ((s.readV n).elem 0)

/-- 41_sha256_schedule R154, R155: SHA256SU1, its word, its lanes (2 and 3 from the new 0 and 1), V[d] alone written. -/
def Obligations.Sha256su1Lanes : Prop :=
  ∀ (d n m : VReg) (s : State),
    (encode (.sha256su1 d n m)).toNat = 0x5E006000 + m.val * 2 ^ 16 + n.val * 2 ^ 5 + d.val ∧
    ∃ t, exec (.sha256su1 d n m) s = .next t ∧ t = s.writeV d (t.readV d) ∧
      t.readV d = su1 (s.readV d) (s.readV n) (s.readV m) ∧
      (t.readV d).elem 0 = sigma1 ((s.readV m).elem 2) + (s.readV d).elem 0 + (s.readV n).elem 1 ∧
      (t.readV d).elem 1 = sigma1 ((s.readV m).elem 3) + (s.readV d).elem 1 + (s.readV n).elem 2 ∧
      (t.readV d).elem 2 = sigma1 ((t.readV d).elem 0) + (s.readV d).elem 2 + (s.readV n).elem 3 ∧
      (t.readV d).elem 3 = sigma1 ((t.readV d).elem 1) + (s.readV d).elem 3 + (s.readV m).elem 0

/-- 42_sha256_hash R175: SHA256H, its word, its result, and that it writes V[d] alone. -/
def Obligations.Sha256hResult : Prop :=
  ∀ (d n m : VReg) (s : State),
    (encode (.sha256h d n m)).toNat = 0x5E004000 + m.val * 2 ^ 16 + n.val * 2 ^ 5 + d.val ∧
    ∃ t, exec (.sha256h d n m) s = .next t ∧ t = s.writeV d (t.readV d) ∧
      t.readV d = hashQuad (s.readV d) (s.readV n) (s.readV m) true

/-- 42_sha256_hash R176: SHA256H2, its word, its result with the roles of d and n swapped, V[d] alone written. -/
def Obligations.Sha256h2Result : Prop :=
  ∀ (d n m : VReg) (s : State),
    (encode (.sha256h2 d n m)).toNat = 0x5E005000 + m.val * 2 ^ 16 + n.val * 2 ^ 5 + d.val ∧
    ∃ t, exec (.sha256h2 d n m) s = .next t ∧ t = s.writeV d (t.readV d) ∧
      t.readV d = hashQuad (s.readV n) (s.readV d) (s.readV m) false

/-- 41_sha256_schedule R150, R151 and 42_sha256_hash R170..R173: the six mixing functions. -/
def Obligations.MixingFunctions : Prop :=
  ∀ x y z : Word,
    sigma0 x = x.rotateRight 7 ^^^ x.rotateRight 18 ^^^ x >>> 3 ∧
    sigma1 x = x.rotateRight 17 ^^^ x.rotateRight 19 ^^^ x >>> 10 ∧
    bigSigma0 x = x.rotateRight 2 ^^^ x.rotateRight 13 ^^^ x.rotateRight 22 ∧
    bigSigma1 x = x.rotateRight 6 ^^^ x.rotateRight 11 ^^^ x.rotateRight 25 ∧
    ch x y z = (x &&& y) ^^^ (~~~x &&& z) ∧
    (∀ k < 32, (ch x y z).getLsbD k = if x.getLsbD k then y.getLsbD k else z.getLsbD k) ∧
    maj x y z = (x &&& y) ^^^ (x &&& z) ^^^ (y &&& z) ∧
    (∀ k < 32, (maj x y z).getLsbD k = Bool.atLeastTwo (x.getLsbD k) (y.getLsbD k) (z.getLsbD k))

/-- 41_sha256_schedule R156: the pair SHA256SU0, SHA256SU1 on four vectors of a sequence that follows the recurrence gives
the next four words. -/
def Obligations.ScheduleExpansion : Prop :=
  ∀ (w : Nat → Word) (i : Nat),
    (∀ t, 16 ≤ t → w t = sigma1 (w (t - 2)) + w (t - 7) + sigma0 (w (t - 15)) + w (t - 16)) →
    su1 (su0 ⟨w i, w (i + 1), w (i + 2), w (i + 3)⟩ ⟨w (i + 4), w (i + 5), w (i + 6), w (i + 7)⟩)
        ⟨w (i + 8), w (i + 9), w (i + 10), w (i + 11)⟩ ⟨w (i + 12), w (i + 13), w (i + 14), w (i + 15)⟩ =
      ⟨w (i + 16), w (i + 17), w (i + 18), w (i + 19)⟩

/-- 42_sha256_hash R177: the two halves HashQuad returns are those of the state after four standard rounds. -/
def Obligations.FourRounds : Prop :=
  ∀ (a b c d e f g h w : Nat → Word),
    (∀ k < 4,
      let t1 := h k + bigSigma1 (e k) + ch (e k) (f k) (g k) + w k
      let t2 := bigSigma0 (a k) + maj (a k) (b k) (c k)
      a (k + 1) = t1 + t2 ∧ b (k + 1) = a k ∧ c (k + 1) = b k ∧ d (k + 1) = c k ∧
      e (k + 1) = d k + t1 ∧ f (k + 1) = e k ∧ g (k + 1) = f k ∧ h (k + 1) = g k) →
    hashQuad ⟨a 0, b 0, c 0, d 0⟩ ⟨e 0, f 0, g 0, h 0⟩ ⟨w 0, w 1, w 2, w 3⟩ true = ⟨a 4, b 4, c 4, d 4⟩ ∧
    hashQuad ⟨a 0, b 0, c 0, d 0⟩ ⟨e 0, f 0, g 0, h 0⟩ ⟨w 0, w 1, w 2, w 3⟩ false = ⟨e 4, f 4, g 4, h 4⟩

/-- 42_sha256_hash R178, 70_reset_and_hazards R310, R311: MOV, SHA256H, SHA256H2 in this order, with the snapshot passed on,
is one quad-round step of the two halves. -/
def Obligations.SnapshotStep : Prop :=
  ∀ (p q u k : VReg) (s : State), p ≠ q → u ≠ p → u ≠ q → k ≠ p → k ≠ q → k ≠ u →
    ∃ t, execAll [.mov u p, .sha256h p q k, .sha256h2 q u k] s = .next t ∧
      t.readV p = hashQuad (s.readV p) (s.readV q) (s.readV k) true ∧
      t.readV q = hashQuad (s.readV p) (s.readV q) (s.readV k) false ∧
      t.readV u = s.readV p ∧ ∀ r, r ≠ p → r ≠ q → r ≠ u → t.readV r = s.readV r

/-- 10_state R35, 30_encoding R110: what an instruction (SHA256H, SHA256H2, SHA256SU1, SHA256SU0, ADD, ORR, REV32) leaves
unchanged: every register but Rd, the status, the hash state, every register of the block, the engine, and all memory. -/
def Obligations.InstructionFrame : Prop :=
  ∀ (i : Instr) (s t : State), exec i s = .next t →
    (∀ r, r ≠ i.rd → t.readV r = s.readV r) ∧
    (∀ a, Memory.read t.mem a = Memory.read s.mem a) ∧
    t.statusWord = s.statusWord ∧ (∀ k, t.readHash k = s.readHash k) ∧
    t.busy = s.busy ∧ t.fault = s.fault ∧ t.cause = s.cause ∧ t.faultInfo = s.faultInfo ∧ t.hash = s.hash ∧
    t.srcAddr = s.srcAddr ∧ t.nblocks = s.nblocks ∧ t.curAddr = s.curAddr ∧ t.remain = s.remain ∧
    t.mem = s.mem ∧ t.schedule = s.schedule ∧ t.lastRead = s.lastRead ∧ t.lastByte = s.lastByte ∧ t.draws = s.draws

/-- 60_exceptions R260: every instruction completes on every operand value in every state (SHA256H, SHA256H2, SHA256SU1,
SHA256SU0, ADD, ORR, REV32). FAULT and BUSY are looked at by the port, not by exec (log 15). -/
def Obligations.EveryInstructionCompletes : Prop := ∀ (i : Instr) (s : State), ∃ t, exec i s = .next t

/-- 30_encoding R110: what an instruction writes depends on its source registers alone. -/
def Obligations.ResultFromSources : Prop :=
  ∀ (i : Instr) (s s' t t' : State), (∀ r ∈ i.sources, s.readV r = s'.readV r) →
    exec i s = .next t → exec i s' = .next t' → t.readV i.rd = t'.readV i.rd

/-! ### The instruction port and faults -/

/-- 30_encoding R110, 10_state R42: a step runs the decoded instruction. With FAULT = 0, an INSTR write of a word that
decodes to i is exec of i in the state it meets; the step adds only that the event leaves the schedule. The second half says
it of a word placed by withFetchWord, which is the model's own (log 9). -/
def Obligations.StepRunsDecodedInstruction : Prop :=
  (∀ (s : State) (w : Word) (i : Instr), s.fault = false → decode w = .ok i →
    step (offer (.regWrite 0x014 32 w) s) = exec i s) ∧
  ∀ (s : State) (w : Word) (i : Instr), decode w = .ok i →
    step (s.withFetchWord 32 w.toNat) = exec i { s with fault := false, cause := .none, faultInfo := 0 }

/-- 10_state R42: INSTR reads as 0; a write executes the word, whether or not BUSY = 1; a write while FAULT = 1 is
ignored. -/
def Obligations.InstrRegister : Prop :=
  ∀ (s : State) (w : Word),
    step (offer (.regRead 0x014 32) s) = .next { s with lastRead := 0 } ∧
    (s.fault = true → step (offer (.regWrite 0x014 32 w) s) = .next s) ∧
    (s.fault = false → ∀ i, decode w = .ok i →
      step (offer (.regWrite 0x014 32 w) s) = exec i s ∧
      ∃ t, step (offer (.regWrite 0x014 32 w) s) = .next t ∧ t.busy = s.busy ∧ t.hash = s.hash) ∧
    (s.fault = false → ∀ e, decode w = .error e →
      step (offer (.regWrite 0x014 32 w) s) = .next (raiseFault .undefinedInstruction w s))

/-- 60_exceptions R261: an INSTR write of a word of no row, while FAULT = 0, raises Fault(1, w); no vector register is
written. -/
def Obligations.UndefinedWordFault : Prop :=
  ∀ (s : State) (w : Word), s.fault = false → (∀ i, decode w ≠ .ok i) →
    ∃ t, step (offer (.regWrite 0x014 32 w) s) = .next t ∧ t = raiseFault .undefinedInstruction w s ∧
      (∀ r, t.readV r = s.readV r) ∧ t.statusWord = 0x00000012#32 ∧ t.faultInfo = w

/-- 60_exceptions R263: what raising a fault writes and what it keeps, and what the unit does after it. STATE0..7 after a
fault under a command are free values (log 6), of which only this is said: the clause on another memory m takes the draws of
the two transitions it compares to be the same one, which is the model's choice (log 19). That CUR_ADDR and REMAIN are kept is deduced: R263
lists no write to them (log 16). That every read completes is the model's choice (log 1). -/
def Obligations.FaultEntry : Prop :=
  ∀ (c : Cause) (u : Word) (s : State),
    let t := raiseFault c u s
    t.fault = true ∧ t.cause = c ∧ t.faultInfo = u ∧ t.busy = false ∧
    (s.busy = false → t.hash = s.hash) ∧
    t.v = s.v ∧ t.srcAddr = s.srcAddr ∧ t.nblocks = s.nblocks ∧ t.curAddr = s.curAddr ∧ t.remain = s.remain ∧
    t.mem = s.mem ∧ t.schedule = s.schedule ∧ t.lastRead = s.lastRead ∧ t.lastByte = s.lastByte ∧
    (∀ m : Memory, raiseFault c u { s with mem := m } = { t with mem := m }) ∧
    step (offer .engine t) = .next t ∧
    ∀ x : Word,
      step (offer (.regWrite 0x000 32 x) t) = .next t ∧
      step (offer (.regWrite 0x014 32 x) t) = .next t ∧
      step (offer (.regWrite 0x008 32 x) t) = .next { t with srcAddr := x } ∧
      step (offer (.regWrite 0x00C 32 x) t) = .next { t with nblocks := x } ∧
      step (offer (.regRead 0x008 32) t) = .next { t with lastRead := t.srcAddr } ∧
      step (offer (.regRead 0x00C 32) t) = .next { t with lastRead := t.nblocks } ∧
      (∀ k : Fin 8,
        step (offer (.regWrite (0x020 + 4 * k.val) 32 x) t) = .next (t.writeHash k x) ∧
        step (offer (.regRead (0x020 + 4 * k.val) 32) t) = .next { t with lastRead := t.readHash k }) ∧
      ∀ (r : VReg) (e : Fin 4),
        step (offer (.regWrite (0x100 + 16 * r.val + 4 * e.val) 32 x) t) = .next (t.writeV r ((t.readV r).setElem e x)) ∧
        step (offer (.regRead (0x100 + 16 * r.val + 4 * e.val) 32) t) =
          .next { t with lastRead := (t.readV r).elem e }

/-- 60_exceptions R264: an INSTR write can raise only cause 1 and a block step only cause 2, nothing else raises a fault, and
until a reset the record is that of the first fault. -/
def Obligations.FirstFaultIsRecorded : Prop :=
  (∀ s t : State, s.fault = false → step s = .next t → t.fault = true →
    ((t.cause = .undefinedInstruction ∧ ∃ w rest, s.schedule = .regWrite 0x014 32 w :: rest ∧ t.faultInfo = w) ∨
     (t.cause = .blockOutOfRange ∧ (s.schedule = [] ∨ ∃ rest, s.schedule = .engine :: rest) ∧
      t.faultInfo = BitVec.ofNat 32 s.curAddr))) ∧
  ∀ s t : State, s.fault = true → (∀ rest, s.schedule ≠ .reset :: rest) → step s = .next t →
    t.fault = true ∧ t.cause = s.cause ∧ t.faultInfo = s.faultInfo

/-- 60_exceptions R265: FAULT is cleared by a reset and by nothing else, and no second fault is recorded; STATUS and FAULT_INFO stay readable. -/
def Obligations.OnlyResetClearsFault : Prop :=
  (∀ s t : State, s.fault = true → step s = .next t →
    (t.fault = true ∧ t.cause = s.cause ∧ t.faultInfo = s.faultInfo) ∨ ∃ rest, s.schedule = .reset :: rest) ∧
  (∀ s : State, ∃ t, step (offer .reset s) = .next t ∧ t.fault = false ∧ t.statusWord = 0 ∧ t.faultInfo = 0) ∧
  ∀ s : State,
    step (offer (.regRead 0x004 32) s) = .next { s with lastRead := s.statusWord } ∧
    step (offer (.regRead 0x010 32) s) = .next { s with lastRead := s.faultInfo }

/-! ### The register block -/

/-- 10_state R43, 00_scope R5, 60_exceptions R271: the register at each offset of the map, and that no other aligned offset
has one. A host address UNIT_BASE + off is the access at offset off, for every UNIT_BASE; an address outside the window is
refused (its name is log 13). On a platform of n units, it is the access of the unit in whose window it lies, alone (log 8). -/
def Obligations.RegisterMap : Prop :=
  regAt 0x000 32 = .ok .ctrl ∧ regAt 0x004 32 = .ok .status ∧ regAt 0x008 32 = .ok .srcAddr ∧
  regAt 0x00C 32 = .ok .nblocks ∧ regAt 0x010 32 = .ok .faultInfo ∧ regAt 0x014 32 = .ok .instr ∧
  (∀ i : Fin 8, regAt (0x020 + 4 * i.val) 32 = .ok (.state i)) ∧
  (∀ (r : VReg) (e : Fin 4), regAt (0x100 + 16 * r.val + 4 * e.val) 32 = .ok (.vreg r e)) ∧
  (∀ (off width : Nat) (r : BlockReg), regAt off width = .ok r →
    width = 32 ∧ off % 4 = 0 ∧ (off ≤ 0x014 ∨ (0x020 ≤ off ∧ off < 0x040) ∨ (0x100 ≤ off ∧ off < 0x300))) ∧
  (∀ (base off width : Nat) (x : Word) (s : State), off < 0x300 →
    hostWriteAt base (base + off) width x s = step (offer (.regWrite off width x) s) ∧
    hostReadAt base (base + off) width s = step (offer (.regRead off width) s)) ∧
  (∀ (base addr width : Nat) (x : Word) (s : State), addr < base ∨ base + 0x300 ≤ addr →
    hostWriteAt base addr width x s = .refused .outsideWindow ∧ hostReadAt base addr width s = .refused .outsideWindow) ∧
  ∀ (n : Nat) (base : Nat → Nat) (p : Vector State n) (u : Fin n) (off width : Nat) (x : Word), off < 0x300 →
    (∀ w : Fin n, w ≠ u → inWindow (base w.val) (base u.val + off) = false) →
    platformWith Config.memSize base (.busWrite (base u.val + off) width x) p =
      onUnit u (fun s => step (offer (.regWrite off width x) s)) p ∧
    platformWith Config.memSize base (.busRead (base u.val + off) width) p =
      onUnit u (fun s => step (offer (.regRead off width) s)) p

/-- 10_state R46: exactly the accesses of a wrong width, a misaligned, reserved or outside offset are refused; every other
access of the host completes, in every state. The reserved bits of CTRL are ignored, those of STATUS read as 0. That a read
of a register nothing has written completes is the model's choice (log 1). -/
def Obligations.RefusedAccesses : Prop :=
  ∀ (off width : Nat) (x : Word) (s : State),
    ((width ≠ 32 ∨ off % 4 ≠ 0 ∨ off = 0x018 ∨ off = 0x01C ∨ (0x040 ≤ off ∧ off ≤ 0x0FC) ∨ 0x300 ≤ off) →
      (∃ r, step (offer (.regWrite off width x) s) = .refused r) ∧
      ∃ r, step (offer (.regRead off width) s) = .refused r) ∧
    (¬ (width ≠ 32 ∨ off % 4 ≠ 0 ∨ off = 0x018 ∨ off = 0x01C ∨ (0x040 ≤ off ∧ off ≤ 0x0FC) ∨ 0x300 ≤ off) →
      (∃ t, step (offer (.regWrite off width x) s) = .next t) ∧
      ∃ t, step (offer (.regRead off width) s) = .next t) ∧
    step (offer (.regWrite 0x000 32 x) s) = step (offer (.regWrite 0x000 32 (x &&& 3#32)) s) ∧
    s.statusWord &&& 0xFFFFFF0C#32 = 0

/-- 10_state R40: the fields of STATUS, its reserved bits, that writes to it are ignored and reads of it change nothing of
the unit. -/
def Obligations.StatusRegister : Prop :=
  ∀ s : State,
    s.statusWord.getLsbD 0 = s.busy ∧ s.statusWord.getLsbD 1 = s.fault ∧
    s.statusWord.extractLsb' 2 2 = 0 ∧ s.statusWord.extractLsb' 4 4 = s.cause.code ∧
    s.statusWord.extractLsb' 8 24 = 0 ∧ s.cause.code.toNat ≤ 2 ∧
    (∀ x, step (offer (.regWrite 0x004 32 x) s) = .next s) ∧
    step (offer (.regRead 0x004 32) s) = .next { s with lastRead := s.statusWord }

/-- 10_state R39, 43_compression_engine R205, R206: what a CTRL write does to an idle unit by its bits 1 and 0, that it is
ignored while BUSY = 1 or FAULT = 1, and that CTRL reads as 0. -/
def Obligations.CtrlCommands : Prop :=
  ∀ (s : State) (x : Word),
    step (offer (.regRead 0x000 32) s) = .next { s with lastRead := 0 } ∧
    (s.busy = true ∨ s.fault = true → step (offer (.regWrite 0x000 32 x) s) = .next s) ∧
    (s.busy = false → s.fault = false →
      let s1 := if x.getLsbD 1 then
          { s with hash := #v[0x6A09E667, 0xBB67AE85, 0x3C6EF372, 0xA54FF53A,
                              0x510E527F, 0x9B05688C, 0x1F83D9AB, 0x5BE0CD19] }
        else s
      let s2 := if x.getLsbD 0 then
          { s1 with curAddr := s.srcAddr.toNat, remain := s.nblocks, busy := decide (s.nblocks ≠ 0) }
        else s1
      step (offer (.regWrite 0x000 32 x) s) = .next s2)

/-- 10_state R37, R38: SRC_ADDR and NBLOCKS read back as written, ignore writes while BUSY = 1, and are latched at START
and not used by a command already accepted. That a read of one that nothing has written completes is the model's choice (log 1);
so is that the last clauses take the STATE0..7 drawn at a fault of the two engine turns to be the same draw (log 19). -/
def Obligations.SrcAddrAndNblocks : Prop :=
  ∀ (s : State) (x : Word),
    (s.busy = true → step (offer (.regWrite 0x008 32 x) s) = .next s ∧
      step (offer (.regWrite 0x00C 32 x) s) = .next s) ∧
    (s.busy = false →
      (∃ t, step (offer (.regWrite 0x008 32 x) s) = .next t ∧ t = { s with srcAddr := x } ∧
        step (offer (.regRead 0x008 32) t) = .next { t with lastRead := x }) ∧
      ∃ t, step (offer (.regWrite 0x00C 32 x) s) = .next t ∧ t = { s with nblocks := x } ∧
        step (offer (.regRead 0x00C 32) t) = .next { t with lastRead := x }) ∧
    step (offer (.regRead 0x008 32) s) = .next { s with lastRead := s.srcAddr } ∧
    step (offer (.regRead 0x00C 32) s) = .next { s with lastRead := s.nblocks } ∧
    (s.busy = false → s.fault = false → ∃ t, step (offer (.regWrite 0x000 32 1) s) = .next t ∧
      t.curAddr = s.srcAddr.toNat ∧ t.remain = s.nblocks) ∧
    ∀ m, engineTurn m { s with srcAddr := x } = { engineTurn m s with srcAddr := x } ∧
      engineTurn m { s with nblocks := x } = { engineTurn m s with nblocks := x }

/-- 10_state R36, R45: STATE writes are ignored while BUSY = 1 and read back while BUSY = 0; a STATE read while BUSY = 1
completes with a free value (log 6), of which nothing is said. That STATE holds a value before anything has written it, so that
a read while BUSY = 0 completes in every state, is the model's choice (log 1). -/
def Obligations.StateRegisters : Prop :=
  ∀ (s : State) (i j : Fin 8) (x : Word),
    (s.busy = true →
      step (offer (.regWrite (0x020 + 4 * i.val) 32 x) s) = .next s ∧
      ∃ y n, step (offer (.regRead (0x020 + 4 * i.val) 32) s) = .next { s with lastRead := y, draws := n }) ∧
    (s.busy = false →
      step (offer (.regRead (0x020 + 4 * i.val) 32) s) = .next { s with lastRead := s.readHash i } ∧
      ∃ t, step (offer (.regWrite (0x020 + 4 * i.val) 32 x) s) = .next t ∧ t = { s with hash := t.hash } ∧
        t.readHash j = if j = i then x else s.readHash j)

/-- 10_state R44: a VREG write sets one lane of one register, a VREG read returns one, in every state of BUSY and FAULT.
That every register holds a value, so that no read of one faults, is the model's choice (log 1). -/
def Obligations.VregWindow : Prop :=
  ∀ (s : State) (r : VReg) (e : Fin 4) (x : Word),
    step (offer (.regRead (0x100 + 16 * r.val + 4 * e.val) 32) s) = .next { s with lastRead := (s.readV r).elem e } ∧
    ∃ t, step (offer (.regWrite (0x100 + 16 * r.val + 4 * e.val) 32 x) s) = .next t ∧ t = { s with v := t.v } ∧
      (t.readV r).elem e = x ∧ (∀ f, f ≠ e → (t.readV r).elem f = (s.readV r).elem f) ∧
      ∀ q, q ≠ r → t.readV q = s.readV q

/-- 20_memory R76, 10_state R40, R41, 92_eei_decisions D28: register reads change nothing of the unit, and writes to STATUS
and FAULT_INFO change nothing at all. What a read does change, lastRead and draws, are the model's own fields (log 5, 6). -/
def Obligations.ReadsHaveNoEffect : Prop :=
  (∀ (off width : Nat) (s t : State), step (offer (.regRead off width) s) = .next t →
    t = { s with lastRead := t.lastRead, draws := t.draws }) ∧
  ∀ (s : State) (x : Word), step (offer (.regWrite 0x004 32 x) s) = .next s ∧
    step (offer (.regWrite 0x010 32 x) s) = .next s

/-! ### Message memory -/

/-- 20_memory R80: a read returns the last write, and other addresses keep their bytes. -/
def Obligations.MemoryReadAfterWrite : Prop :=
  ∀ (m : Memory) (a b : Nat) (x : Byte), Memory.wf m = true →
    Memory.read (Memory.write m a x) b = if b = a then x else Memory.read m b

/-- 20_memory R70, R82 and log 11, 12: what a host write and a host read of a message-memory byte do, inside and outside the
active blocks and the memory. The refusal and the fault are the model's own ends. -/
def Obligations.HostMemoryAccess : Prop :=
  ∀ (s : State) (a : Nat) (x : Byte),
    (Config.memSize ≤ a →
      step (offer (.memWrite a x) s) = .fault .outsideMemory ∧ step (offer (.memRead a) s) = .fault .outsideMemory) ∧
    (a < Config.memSize →
      step (offer (.memRead a) s) = .next { s with lastByte := Memory.read s.mem a } ∧
      (s.busy = true → s.srcAddr.toNat ≤ a → a < s.srcAddr.toNat + 64 * s.nblocks.toNat →
        step (offer (.memWrite a x) s) = .refused .activeBlockWrite) ∧
      (s.busy = false ∨ a < s.srcAddr.toNat ∨ s.srcAddr.toNat + 64 * s.nblocks.toNat ≤ a →
        step (offer (.memWrite a x) s) = .next { s with mem := Memory.write s.mem a x }))

/-- 20_memory R70: the unit never writes message memory; only a host write of a byte changes it. -/
def Obligations.UnitNeverWritesMemory : Prop :=
  ∀ s t : State, step s = .next t → t.mem ≠ s.mem → ∃ a x rest, s.schedule = .memWrite a x :: rest

/-- 20_memory R71: the words of a block are big-endian, and the first schedule vectors are its words in order. -/
def Obligations.BlockWordsBigEndian : Prop :=
  ∀ (m : Memory) (a : Nat),
    (∀ t : Fin 16, (blockWord (Memory.readBlock m a) t).toNat =
      (Memory.read m (a + 4 * t.val)).toNat * 2 ^ 24 + (Memory.read m (a + 4 * t.val + 1)).toNat * 2 ^ 16 +
      (Memory.read m (a + 4 * t.val + 2)).toNat * 2 ^ 8 + (Memory.read m (a + 4 * t.val + 3)).toNat) ∧
    ∀ (j e : Fin 4), ((blockMsg (Memory.readBlock m a))[j.val]).elem e =
      blockWord (Memory.readBlock m a) ⟨4 * j.val + e.val, by omega⟩

/-- 20_memory R72: REV32 of the little-endian lanes of a block gives its schedule vectors. -/
def Obligations.Rev32OfLittleEndianLoad : Prop :=
  ∀ (b : Block) (j : Fin 4),
    (∀ e k : Fin 4, ((leVec b j).elem e).extractLsb' (8 * k.val) 8 =
      b[16 * j.val + 4 * e.val + k.val]'(by omega)) ∧
    vecRev32 (leVec b j) = blockVec b j

/-! ### The block engine -/

/-- 43_compression_engine R207: when a block step is enabled and what it does, by its three cases. -/
def Obligations.BlockStep : Prop :=
  ∀ s : State,
    (s.busy = false ∨ s.fault = true → step (offer .engine s) = .next s) ∧
    (s.busy = true → s.fault = false → Config.memSize < s.curAddr + 64 →
      step (offer .engine s) = .next (raiseFault .blockOutOfRange (BitVec.ofNat 32 (s.curAddr % 2 ^ 32)) s)) ∧
    (s.busy = true → s.fault = false → s.curAddr + 64 ≤ Config.memSize →
      step (offer .engine s) = .next
        { s with hash := compressBlock s.hash (Memory.readBlock s.mem s.curAddr),
                 curAddr := s.curAddr + 64, remain := s.remain - 1, busy := decide (s.remain - 1 ≠ 0) })

/-- 60_exceptions R262, 20_memory R77: a block not wholly inside message memory raises Fault(2, CUR_ADDR mod 2^32); addresses
do not wrap at 2^32, and no byte is read: the result is the same whatever memory holds. That the STATE0..7 drawn at the fault
are the same in the two transitions compared is the model's choice (log 19). -/
def Obligations.BlockOutOfRange : Prop :=
  ∀ (s : State) (m : Memory), s.busy = true → s.fault = false → Config.memSize < s.curAddr + 64 →
    ∃ t, step (offer .engine s) = .next t ∧ t.statusWord = 0x00000022#32 ∧
      t.faultInfo.toNat = s.curAddr % 2 ^ 32 ∧ t.v = s.v ∧ t.mem = s.mem ∧
      step (offer .engine { s with mem := m }) = .next { t with mem := m }

/-- 43_compression_engine R200, R201: K[t] is the first 32 bits of the fractional part of the cube root of the t-th prime,
H0[i] those of the square root of the i-th prime. -/
def Obligations.ConstantsAreRoots : Prop :=
  (∀ t : Fin 64, ∃ n : Nat,
    (n * 2 ^ 32 + (kConst t).toNat) ^ 3 ≤ Nat.nth Nat.Prime t.val * 2 ^ 96 ∧
    Nat.nth Nat.Prime t.val * 2 ^ 96 < (n * 2 ^ 32 + (kConst t).toNat + 1) ^ 3) ∧
  (∀ g : Fin 16, ∀ e : Fin 4, (kGroup g).elem e = kConst ⟨4 * g.val + e.val, by omega⟩) ∧
  ∀ i : Fin 8, ∃ n : Nat,
    (n * 2 ^ 32 + (h0[i.val]).toNat) ^ 2 ≤ Nat.nth Nat.Prime i.val * 2 ^ 64 ∧
    Nat.nth Nat.Prime i.val * 2 ^ 64 < (n * 2 ^ 32 + (h0[i.val]).toNat + 1) ^ 2

/-- 43_compression_engine R204 (for the steps that still expand; the vector consumed, for all sixteen): before step i,
msg_(i mod 4) holds W[4i..4i+3], and for i ≤ 12 the other three hold W[4i+4..4i+15], each in its cyclic place. -/
def Obligations.MessageVectorsHoldSchedule : Prop :=
  ∀ (b : Block) (x y : Vec) (i : Nat), i < 16 →
    let msg := (((List.finRange 16).take i).foldl quadRound ⟨blockMsg b, x, y⟩).msg
    let w : Nat → Word := fun t => (messageSchedule b).getD t 0
    msg[i % 4]'(Nat.mod_lt _ (by decide)) = ⟨w (4 * i), w (4 * i + 1), w (4 * i + 2), w (4 * i + 3)⟩ ∧
    (i ≤ 12 → ∀ k < 4, msg[(i + k) % 4]'(Nat.mod_lt _ (by decide)) =
      ⟨w (4 * i + 4 * k), w (4 * i + 4 * k + 1), w (4 * i + 4 * k + 2), w (4 * i + 4 * k + 3)⟩)

/-- 43_compression_engine R210: CompressBlock is the scalar compression: the recurrence of R156, 64 rounds of R177, and the
starting state added back. -/
def Obligations.ScalarEquivalence : Prop := ∀ (h : HashState) (b : Block), compressBlock h b = scalarCompress h b

/-- 43_compression_engine R209: a command of N ≥ 1 blocks at address a, accepted by an idle unit, whatever the host then does
but reset. In the first state with BUSY = 0 again, if there is no fault, STATE is the fold of CompressBlock over the blocks
of the memory the command started with, from the STATE it started with (H0 if the CTRL write had INIT). That the host does not
change those blocks meanwhile is 20_memory R82, by which the model refuses such a write (log 11). -/
def Obligations.CommandEndState : Prop :=
  ∀ (s : State) (x : Word) (rest : List Event), s.busy = false → s.fault = false → s.nblocks ≠ 0 →
    Memory.wf s.mem = true → x.getLsbD 0 = true → .reset ∉ rest →
    let begin : State := { s with schedule := .regWrite 0x000 32 x :: rest }
    ∀ (k : Nat) (t : State), 1 ≤ k →
      (∀ j, 1 ≤ j → j < k → ∃ u, Host.Core.run core j begin = .next u ∧ u.busy = true) →
      Host.Core.run core k begin = .next t → t.busy = false → t.fault = false →
      t.hash = (List.range s.nblocks.toNat).foldl
        (fun h b => compressBlock h (Memory.readBlock s.mem (s.srcAddr.toNat + 64 * b)))
        (if x.getLsbD 1 then h0 else s.hash)

/-- 43_compression_engine R206, R207, R212: a command of N ≥ 1 blocks inside memory, started in an idle unit and left alone,
is BUSY until its N-th block step and ends there with no fault; by log 4 and 10, each step with nothing scheduled is the
engine's turn. -/
def Obligations.CommandRunsToEnd : Prop :=
  ∀ s : State, s.busy = false → s.fault = false → s.nblocks ≠ 0 →
    s.srcAddr.toNat + 64 * s.nblocks.toNat ≤ Config.memSize →
    let begin : State := { s with schedule := [.regWrite 0x000 32 1] }
    (∀ k < s.nblocks.toNat, ∃ t, Host.Core.run core (1 + k) begin = .next t ∧ t.busy = true ∧ t.fault = false) ∧
    ∃ t, Host.Core.run core (1 + s.nblocks.toNat) begin = .next t ∧ t.busy = false ∧ t.fault = false ∧
      t.hash = (List.range s.nblocks.toNat).foldl
        (fun h b => compressBlock h (Memory.readBlock s.mem (s.srcAddr.toNat + 64 * b))) s.hash ∧
      t.v = s.v ∧ t.mem = s.mem ∧ t.srcAddr = s.srcAddr ∧ t.nblocks = s.nblocks

/-- 43_compression_engine R211: the engine and the instructions use disjoint state: neither changes what the other uses, and
neither depends on it; and a turn of the engine and exec of an instruction give the same state in either order. This speaks of
exec, which does not look at FAULT (log 15): where the turn raises a fault, an INSTR write after it is ignored at the port (10_state
R42), and only the other order executes the instruction. That the two transitions compared then draw the same STATE0..7 is the
model's choice (log 19). -/
def Obligations.EngineAndPortIndependent : Prop :=
  (∀ (m : Nat) (s : State), (engineTurn m s).v = s.v) ∧
  (∀ (m : Nat) (s : State) (v : Vector Vec 32), engineTurn m { s with v := v } = { engineTurn m s with v := v }) ∧
  ∀ (i : Instr) (m : Nat) (s t : State), exec i s = .next t →
    t.hash = s.hash ∧ t.curAddr = s.curAddr ∧ t.remain = s.remain ∧
    (∀ (h : HashState) (a : Nat) (r : Word),
      exec i { s with hash := h, curAddr := a, remain := r } = .next { t with hash := h, curAddr := a, remain := r }) ∧
    exec i (engineTurn m s) = .next (engineTurn m t)

/-! ### Reset and the whole machine -/

/-- 70_reset_and_hazards R300, R301: the values the spec gives after reset, in State.reset and after a reset during a run,
which leaves message memory alone and abandons a command. Nothing is said of the registers R300 leaves unspecified. -/
def Obligations.ResetLeavesUnitIdle : Prop :=
  State.reset.statusWord = 0 ∧ State.reset.faultInfo = 0 ∧
  ∀ s : State, ∃ t, step (offer .reset s) = .next t ∧
    t.statusWord = 0 ∧ t.faultInfo = 0 ∧ t.busy = false ∧ t.fault = false ∧ t.cause = .none ∧
    (∀ a, Memory.read t.mem a = Memory.read s.mem a) ∧ t.schedule = s.schedule ∧
    step (offer .engine t) = .next t ∧
    step (offer (.regRead 0x000 32) t) = .next { t with lastRead := 0 } ∧
    step (offer (.regRead 0x014 32) t) = .next { t with lastRead := 0 }

/-- 60_exceptions R273, 70_reset_and_hazards R301 and log 4: while BUSY = 0 and the host does nothing, nothing changes. -/
def Obligations.IdleUnitRests : Prop := ∀ s : State, s.schedule = [] → s.busy = false → step s = .next s

/-- The invariant holds right after reset. -/
def Obligations.ResetMeetsInvariant : Prop := Inv Config.memSize State.reset

/-- Every step keeps the invariant: the fault record agrees with itself (10_state R40, R41, 60_exceptions R260, R263), a
command is where its registers say (10_state R48, 43 R206, R207), memory is canonical and inside MEM_SIZE (20_memory R70). -/
def Obligations.StepKeepsInvariant : Prop :=
  ∀ s t : State, Inv Config.memSize s → step s = .next t → Inv Config.memSize t

/-- 10_state R31, R44, 30_encoding R110, 43_compression_engine R211: a vector register changes only by an INSTR write, a VREG
write or a reset. -/
def Obligations.VectorFileWriters : Prop :=
  ∀ s t : State, step s = .next t → t.v ≠ s.v →
    ∃ e rest, s.schedule = e :: rest ∧
      (e = .reset ∨ (∃ w, e = .regWrite 0x014 32 w) ∨ ∃ off w, e = .regWrite off 32 w ∧ 0x100 ≤ off ∧ off < 0x300)

/-- 10_state R36, 60_exceptions R263, 70_reset_and_hazards R300: STATE0..7 change only by a block step or its fault, a CTRL
write or a STATE write in an idle unit, a fault at the port under a command, or a reset. -/
def Obligations.HashStateWriters : Prop :=
  ∀ s t : State, step s = .next t → t.hash ≠ s.hash →
    (s.schedule = [] ∧ s.busy = true) ∨
    ∃ e rest, s.schedule = e :: rest ∧
      (e = .reset ∨ (e = .engine ∧ s.busy = true) ∨
       (∃ w, e = .regWrite 0x000 32 w ∧ w.getLsbD 1 = true ∧ s.busy = false ∧ s.fault = false) ∨
       (∃ off w, e = .regWrite off 32 w ∧ 0x020 ≤ off ∧ off < 0x040 ∧ s.busy = false) ∨
       (∃ w, e = .regWrite 0x014 32 w ∧ s.busy = true ∧ s.fault = false ∧ t.fault = true))

/-! ### The host driver -/

/-- 44_host_driver R241, R242, R246: the padded message byte by byte, its length, its number of blocks, and the one fixed
trailing block it adds to a whole number of blocks. -/
def Obligations.PaddedMessage : Prop :=
  ∀ data : List Byte, data.length < 2 ^ 61 →
    let len := data.length
    let p := padMessage data
    zeroFill len < 64 ∧ (len + 1 + zeroFill len + 8) % 64 = 0 ∧ p.length = len + 1 + zeroFill len + 8 ∧
    p.length = 64 * (if len % 64 ≤ 55 then len / 64 + 1 else len / 64 + 2) ∧ blockCount len = p.length / 64 ∧
    p.take len = data ∧ p.getD len 0 = 0x80 ∧
    (∀ k, len < k → k < len + 1 + zeroFill len → p.getD k 0 = 0) ∧
    (p.drop (p.length - 8)).foldl (fun n x => n * 256 + x.toNat) 0 = 8 * len ∧
    (len % 64 = 0 → p = data ++ ([0x80] ++ List.replicate 55 0 ++ be64 (8 * len)))

/-- 44_host_driver R240, R245: ComputeHash has a result of 32 bytes for every message below 2^61 bytes; a longer one is
refused by the model. -/
def Obligations.ComputeHashTotal : Prop :=
  ∀ data : List Byte,
    (data.length < 2 ^ 61 → ∃ d, computeHash data = .ok d ∧ d.length = 32) ∧
    (2 ^ 61 ≤ data.length → computeHash data = .error .messageTooLong)

/-- 44_host_driver R244, 20_memory R73: the digest is the state words, each big-endian, in the order STATE0..STATE7. -/
def Obligations.DigestBytes : Prop :=
  ∀ h : HashState, (digest h).length = 32 ∧
    ∀ (i : Fin 8) (k : Fin 4), (digest h).getD (4 * i.val + k.val) 0 = (h[i.val]).extractLsb' (24 - 8 * k.val) 8

/-- 44_host_driver R243: a host that places the padded message, writes SRC_ADDR and NBLOCKS, and writes CTRL = 3 to an idle
unit finds BUSY = 0 and FAULT = 0 after the block steps, and STATE serialises to the digest.
The list of events, with the engine's turns before one poll, is the model's form of R243 (log 14). Then the host at work: it
splits the padded message into parts at addresses of its own, drives one command a part, the first alone with INIT, polls
STATUS until BUSY = 0, requires FAULT = 0 of the word read, and makes the digest of the words it reads; given enough engine
turns between its polls, it ends with the hash. -/
def Obligations.DriverComputesHash : Prop :=
  (∀ (s : State) (a : Nat) (data : List Byte), s.busy = false → s.fault = false → Memory.wf s.mem = true →
    a + 64 * blockCount data.length ≤ Config.memSize →
    ∃ t d, Host.Core.run core (hashEvents a data).length { s with schedule := hashEvents a data } = .next t ∧
      t.schedule = [] ∧ t.busy = false ∧ t.fault = false ∧ computeHash data = .ok d ∧ digest t.hash = d) ∧
  ∀ (s : State) (first : Part) (more : List Part) (data : List Byte),
    s.busy = false → s.fault = false → Memory.wf s.mem = true → data.length < 2 ^ 61 →
    ((first :: more).map (·.blocks)).sum = blockCount data.length →
    (∀ p ∈ first :: more, 1 ≤ p.blocks ∧ p.addr + 64 * p.blocks ≤ Config.memSize ∧ p.blocks ≤ p.turns.sum) →
    (first :: more).Pairwise (fun p q => p.addr + 64 * p.blocks ≤ q.addr ∨ q.addr + 64 * q.blocks ≤ p.addr) →
    ∃ d t, driveHash Config.memSize first more data s = .ok (d, t) ∧ computeHash data = .ok d ∧
      t.busy = false ∧ t.fault = false

/-- 44_host_driver R248: one block on the instruction port. With the chaining value in V0, V1, the little-endian lanes of the
block in V6..V9 and K in V16..V31, the words of 95_test_vectors P3 written to INSTR leave the new chaining value in V0, V1.
No engine turn falls between the host's accesses, in either half: that is the model's choice (log 14). By 10_state R30 a block
step of a command under way may fall there, which can change STATE, end BUSY or raise FAULT.
Then the host at work: it writes K, the state and each block through the VREG window, runs the words for each block, and reads
the new chaining value from the window; from any unit with FAULT = 0, whether or not a command is under way, whose block steps
then wait until the host is done. -/
def Obligations.PortCompressesBlock : Prop :=
  (∀ (s : State) (h : HashState) (b : Block), s.fault = false →
    s.readV 0 = state0Of h → s.readV 1 = state1Of h →
    (∀ j : Fin 4, s.readV ⟨6 + j.val, by omega⟩ = leVec b j) →
    (∀ g : Fin 16, s.readV ⟨16 + g.val, by omega⟩ = kGroup g) →
    ∃ t, Host.Core.run core portProgram.length { s with schedule := portEvents portProgram } = .next t ∧
      ofHalves (t.readV 0) (t.readV 1) = compressBlock h b) ∧
  ∀ (s : State) (h : HashState) (bs : List Block), s.fault = false →
    ∃ t, drivePort Config.memSize h bs s = .ok ((bs.foldl compressBlock h).toList, t) ∧
      t.busy = s.busy ∧ t.hash = s.hash ∧ t.fault = false
end

