-- ==== Sys2Proof/Laws/Driver.lean ====
section
/-! SUPPORT. The host's work step by step: every access is a step of the machine, and lists of events run in pieces. -/

namespace Sys2Proof.Machine

@[simp] theorem ofOutcome_next (s : State) : ofOutcome (.next s) = .ok s := rfl

@[simp] theorem driveAll_nil (m : Nat) (s : State) : driveAll m [] s = .ok s := rfl

/-- The host's access is a step of the machine on that event. -/
theorem ofOutcome_step_offer (e : Event) (s : State) :
    ofOutcome (step (offer e s)) = ofOutcome (takeEvent Config.memSize e s) := rfl

/-- A list whose first event answers a next state goes on from there. -/
theorem driveAll_cons {m : Nat} {e : Event} {es : List Event} {s t : State} (h : takeEvent m e s = .next t) :
    driveAll m (e :: es) s = driveAll m es t := by
  simp [driveAll, h]

/-- A list of events runs in two pieces. -/
theorem driveAll_append {m : Nat} {es fs : List Event} {s t : State} (h : driveAll m es s = .ok t) :
    driveAll m (es ++ fs) s = driveAll m fs t := by
  induction es generalizing s with
  | nil => cases h; rfl
  | cons e es ih =>
    simp only [driveAll, List.cons_append] at h ⊢
    split at h
    · exact ih h
    · cases h

/-- The engine's turns of a run are engine turns. -/
theorem driveAll_engine (m n : Nat) (s : State) :
    driveAll m (List.replicate n .engine) s = .ok ((engineTurn m)^[n] s) := by
  induction n generalizing s with
  | zero => rfl
  | succ n ih => rw [List.replicate_succ, driveAll_cons rfl, ih, Function.iterate_succ_apply]

/-- A register read returns what the register read leaves in lastRead. -/
theorem driveRead_of_hostRead {m off : Nat} {s t : State} (h : hostRead off 32 s = .next t) :
    driveRead m off s = .ok (t.lastRead, t) := by
  have h : takeEvent m (.regRead off 32) s = .next t := h
  simp [driveRead, driveAll_cons h]

/-- A poll of STATUS returns the STATUS word and changes nothing of the unit. -/
theorem driveRead_status (m : Nat) (s : State) :
    driveRead m 0x004 s = .ok (s.statusWord, { s with lastRead := s.statusWord }) :=
  driveRead_of_hostRead (t := { s with lastRead := s.statusWord }) rfl

end Sys2Proof.Machine
end

