-- ==== Sys2Proof/Laws/Memory.lean ====
section
/-! SUPPORT. Every memory operation keeps the canonical form. -/

namespace Sys2Proof.Machine

theorem Memory.wf_nil : Memory.wf [] = true := rfl

theorem Memory.wf_cons_iff (a : Nat) (x : Byte) (m : Memory) :
    Memory.wf ((a, x) :: m) = true ↔
      x ≠ Memory.unlisted ∧ (∀ c ∈ m, a < c.1) ∧ Memory.wf m = true := by
  simp [Memory.wf, and_assoc]

/-- An address below every listed one is unlisted. -/
theorem Memory.read_of_lt_all (m : Memory) (a : Nat) (h : ∀ c ∈ m, a < c.1) :
    Memory.read m a = Memory.unlisted := by
  induction m with
  | nil => rfl
  | cons c m ih =>
    obtain ⟨b, y⟩ := c
    have hb : a < b := h (b, y) (by simp)
    have hne : b ≠ a := by omega
    simp only [Memory.read, if_neg hne]
    exact ih fun c hc => h c (by simp [hc])

/-- Every cell of a written memory is the written one or was there before. -/
theorem Memory.mem_write {m : Memory} {a : Nat} {x : Byte} {c : Host.Cell}
    (hc : c ∈ Memory.write m a x) : c.1 = a ∨ c ∈ m := by
  induction m with
  | nil =>
    simp only [Memory.write, Memory.cons] at hc
    split at hc <;> simp_all
  | cons d m ih =>
    obtain ⟨b, y⟩ := d
    simp only [Memory.write, Memory.cons] at hc
    split at hc
    · split at hc
      · exact .inr hc
      · rcases List.mem_cons.1 hc with rfl | hc
        · exact .inl rfl
        · exact .inr hc
    · split at hc
      · split at hc
        · exact .inr (List.mem_cons_of_mem _ hc)
        · rcases List.mem_cons.1 hc with rfl | hc
          · exact .inl rfl
          · exact .inr (List.mem_cons_of_mem _ hc)
      · rcases List.mem_cons.1 hc with rfl | hc
        · exact .inr (by simp)
        · rcases ih hc with h | h
          · exact .inl h
          · exact .inr (List.mem_cons_of_mem _ h)

theorem Memory.wf_consCell {a : Nat} {x : Byte} {m : Memory} (hm : Memory.wf m = true)
    (h : ∀ c ∈ m, a < c.1) : Memory.wf (Memory.cons a x m) = true := by
  unfold Memory.cons
  split
  · exact hm
  · next hx => exact (Memory.wf_cons_iff a x m).2 ⟨hx, h, hm⟩

/-- A write keeps the canonical form. -/
theorem Memory.wf_write {m : Memory} (hm : Memory.wf m = true) (a : Nat) (x : Byte) :
    Memory.wf (Memory.write m a x) = true := by
  induction m with
  | nil => exact Memory.wf_consCell rfl (by simp)
  | cons d m ih =>
    obtain ⟨b, y⟩ := d
    obtain ⟨hy, hlt, hw⟩ := (Memory.wf_cons_iff b y m).1 hm
    simp only [Memory.write]
    split
    · next hab =>
      refine Memory.wf_consCell hm fun c hc => ?_
      rcases List.mem_cons.1 hc with rfl | hc
      · exact hab
      · exact Nat.lt_trans hab (hlt c hc)
    · split
      · next hab => exact Memory.wf_consCell hw fun c hc => hab ▸ hlt c hc
      · next h1 h2 =>
        refine (Memory.wf_cons_iff b y _).2 ⟨hy, fun c hc => ?_, ih hw⟩
        rcases Memory.mem_write hc with h | h
        · omega
        · exact hlt c h

/-- Memory right after reset is in canonical form. -/
theorem reset_mem_wf : Memory.wf State.reset.mem = true := rfl

end Sys2Proof.Machine
end

