-- ==== Sys2Proof/Laws/State.lean ====
section
/-! SUPPORT. What each named update does to each field of the state, one lemma a field. -/

namespace Sys2Proof.Machine

/-! ### V[r] <- x -/

@[simp] theorem writeV_v (s : State) (r : VReg) (x : Vec) :
    (s.writeV r x).v = s.v.set r.val x := rfl

@[simp] theorem writeV_hash (s : State) (r : VReg) (x : Vec) :
    (s.writeV r x).hash = s.hash := rfl

@[simp] theorem writeV_srcAddr (s : State) (r : VReg) (x : Vec) :
    (s.writeV r x).srcAddr = s.srcAddr := rfl

@[simp] theorem writeV_nblocks (s : State) (r : VReg) (x : Vec) :
    (s.writeV r x).nblocks = s.nblocks := rfl

@[simp] theorem writeV_busy (s : State) (r : VReg) (x : Vec) :
    (s.writeV r x).busy = s.busy := rfl

@[simp] theorem writeV_fault (s : State) (r : VReg) (x : Vec) :
    (s.writeV r x).fault = s.fault := rfl

@[simp] theorem writeV_cause (s : State) (r : VReg) (x : Vec) :
    (s.writeV r x).cause = s.cause := rfl

@[simp] theorem writeV_faultInfo (s : State) (r : VReg) (x : Vec) :
    (s.writeV r x).faultInfo = s.faultInfo := rfl

@[simp] theorem writeV_curAddr (s : State) (r : VReg) (x : Vec) :
    (s.writeV r x).curAddr = s.curAddr := rfl

@[simp] theorem writeV_remain (s : State) (r : VReg) (x : Vec) :
    (s.writeV r x).remain = s.remain := rfl

@[simp] theorem writeV_mem (s : State) (r : VReg) (x : Vec) :
    (s.writeV r x).mem = s.mem := rfl

@[simp] theorem writeV_schedule (s : State) (r : VReg) (x : Vec) :
    (s.writeV r x).schedule = s.schedule := rfl

@[simp] theorem writeV_lastRead (s : State) (r : VReg) (x : Vec) :
    (s.writeV r x).lastRead = s.lastRead := rfl

@[simp] theorem writeV_lastByte (s : State) (r : VReg) (x : Vec) :
    (s.writeV r x).lastByte = s.lastByte := rfl

@[simp] theorem writeV_draws (s : State) (r : VReg) (x : Vec) :
    (s.writeV r x).draws = s.draws := rfl

/-! ### STATEi <- x -/

@[simp] theorem writeHash_v (s : State) (i : Fin 8) (x : Word) :
    (s.writeHash i x).v = s.v := rfl

@[simp] theorem writeHash_hash (s : State) (i : Fin 8) (x : Word) :
    (s.writeHash i x).hash = s.hash.set i.val x := rfl

@[simp] theorem writeHash_srcAddr (s : State) (i : Fin 8) (x : Word) :
    (s.writeHash i x).srcAddr = s.srcAddr := rfl

@[simp] theorem writeHash_nblocks (s : State) (i : Fin 8) (x : Word) :
    (s.writeHash i x).nblocks = s.nblocks := rfl

@[simp] theorem writeHash_busy (s : State) (i : Fin 8) (x : Word) :
    (s.writeHash i x).busy = s.busy := rfl

@[simp] theorem writeHash_fault (s : State) (i : Fin 8) (x : Word) :
    (s.writeHash i x).fault = s.fault := rfl

@[simp] theorem writeHash_cause (s : State) (i : Fin 8) (x : Word) :
    (s.writeHash i x).cause = s.cause := rfl

@[simp] theorem writeHash_faultInfo (s : State) (i : Fin 8) (x : Word) :
    (s.writeHash i x).faultInfo = s.faultInfo := rfl

@[simp] theorem writeHash_curAddr (s : State) (i : Fin 8) (x : Word) :
    (s.writeHash i x).curAddr = s.curAddr := rfl

@[simp] theorem writeHash_remain (s : State) (i : Fin 8) (x : Word) :
    (s.writeHash i x).remain = s.remain := rfl

@[simp] theorem writeHash_mem (s : State) (i : Fin 8) (x : Word) :
    (s.writeHash i x).mem = s.mem := rfl

@[simp] theorem writeHash_schedule (s : State) (i : Fin 8) (x : Word) :
    (s.writeHash i x).schedule = s.schedule := rfl

@[simp] theorem writeHash_lastRead (s : State) (i : Fin 8) (x : Word) :
    (s.writeHash i x).lastRead = s.lastRead := rfl

@[simp] theorem writeHash_lastByte (s : State) (i : Fin 8) (x : Word) :
    (s.writeHash i x).lastByte = s.lastByte := rfl

@[simp] theorem writeHash_draws (s : State) (i : Fin 8) (x : Word) :
    (s.writeHash i x).draws = s.draws := rfl

/-! ### INIT -/

@[simp] theorem initHash_v (s : State) :
    (initHash s).v = s.v := rfl

@[simp] theorem initHash_hash (s : State) :
    (initHash s).hash = h0 := rfl

@[simp] theorem initHash_srcAddr (s : State) :
    (initHash s).srcAddr = s.srcAddr := rfl

@[simp] theorem initHash_nblocks (s : State) :
    (initHash s).nblocks = s.nblocks := rfl

@[simp] theorem initHash_busy (s : State) :
    (initHash s).busy = s.busy := rfl

@[simp] theorem initHash_fault (s : State) :
    (initHash s).fault = s.fault := rfl

@[simp] theorem initHash_cause (s : State) :
    (initHash s).cause = s.cause := rfl

@[simp] theorem initHash_faultInfo (s : State) :
    (initHash s).faultInfo = s.faultInfo := rfl

@[simp] theorem initHash_curAddr (s : State) :
    (initHash s).curAddr = s.curAddr := rfl

@[simp] theorem initHash_remain (s : State) :
    (initHash s).remain = s.remain := rfl

@[simp] theorem initHash_mem (s : State) :
    (initHash s).mem = s.mem := rfl

@[simp] theorem initHash_schedule (s : State) :
    (initHash s).schedule = s.schedule := rfl

@[simp] theorem initHash_lastRead (s : State) :
    (initHash s).lastRead = s.lastRead := rfl

@[simp] theorem initHash_lastByte (s : State) :
    (initHash s).lastByte = s.lastByte := rfl

@[simp] theorem initHash_draws (s : State) :
    (initHash s).draws = s.draws := rfl

/-! ### START -/

@[simp] theorem start_v (s : State) :
    (start s).v = s.v := rfl

@[simp] theorem start_hash (s : State) :
    (start s).hash = s.hash := rfl

@[simp] theorem start_srcAddr (s : State) :
    (start s).srcAddr = s.srcAddr := rfl

@[simp] theorem start_nblocks (s : State) :
    (start s).nblocks = s.nblocks := rfl

@[simp] theorem start_busy (s : State) :
    (start s).busy = if s.nblocks ≠ 0 then true else s.busy := rfl

@[simp] theorem start_fault (s : State) :
    (start s).fault = s.fault := rfl

@[simp] theorem start_cause (s : State) :
    (start s).cause = s.cause := rfl

@[simp] theorem start_faultInfo (s : State) :
    (start s).faultInfo = s.faultInfo := rfl

@[simp] theorem start_curAddr (s : State) :
    (start s).curAddr = s.srcAddr.toNat := rfl

@[simp] theorem start_remain (s : State) :
    (start s).remain = s.nblocks := rfl

@[simp] theorem start_mem (s : State) :
    (start s).mem = s.mem := rfl

@[simp] theorem start_schedule (s : State) :
    (start s).schedule = s.schedule := rfl

@[simp] theorem start_lastRead (s : State) :
    (start s).lastRead = s.lastRead := rfl

@[simp] theorem start_lastByte (s : State) :
    (start s).lastByte = s.lastByte := rfl

@[simp] theorem start_draws (s : State) :
    (start s).draws = s.draws := rfl

/-! ### Reset during a run -/

@[simp] theorem takeReset_v (s : State) :
    (takeReset s).v = Vector.ofFn fun r : Fin 32 => freeVec (s.draws + 4 * r.val) := rfl

@[simp] theorem takeReset_hash (s : State) :
    (takeReset s).hash = freeHash (s.draws + 128) := rfl

@[simp] theorem takeReset_srcAddr (s : State) :
    (takeReset s).srcAddr = Config.freeWord (s.draws + 136) := rfl

@[simp] theorem takeReset_nblocks (s : State) :
    (takeReset s).nblocks = Config.freeWord (s.draws + 137) := rfl

@[simp] theorem takeReset_busy (s : State) :
    (takeReset s).busy = false := rfl

@[simp] theorem takeReset_fault (s : State) :
    (takeReset s).fault = false := rfl

@[simp] theorem takeReset_cause (s : State) :
    (takeReset s).cause = .none := rfl

@[simp] theorem takeReset_faultInfo (s : State) :
    (takeReset s).faultInfo = 0 := rfl

@[simp] theorem takeReset_curAddr (s : State) :
    (takeReset s).curAddr = Config.freeNat s.draws := rfl

@[simp] theorem takeReset_remain (s : State) :
    (takeReset s).remain = Config.freeWord (s.draws + 138) := rfl

@[simp] theorem takeReset_mem (s : State) :
    (takeReset s).mem = s.mem := by
  simp only [takeReset]

@[simp] theorem takeReset_schedule (s : State) :
    (takeReset s).schedule = s.schedule := by
  simp only [takeReset]

@[simp] theorem takeReset_lastRead (s : State) :
    (takeReset s).lastRead = s.lastRead := by
  simp only [takeReset]

@[simp] theorem takeReset_lastByte (s : State) :
    (takeReset s).lastByte = s.lastByte := by
  simp only [takeReset]

@[simp] theorem takeReset_draws (s : State) :
    (takeReset s).draws = s.draws + 139 := rfl

/-! ### raise Fault -/

@[simp] theorem raiseFault_v (c : Cause) (u : Word) (s : State) :
    (raiseFault c u s).v = s.v := by
  unfold raiseFault; split <;> rfl

@[simp] theorem raiseFault_hash (c : Cause) (u : Word) (s : State) :
    (raiseFault c u s).hash = if s.busy then freeHash s.draws else s.hash := by
  unfold raiseFault; split <;> simp_all

@[simp] theorem raiseFault_srcAddr (c : Cause) (u : Word) (s : State) :
    (raiseFault c u s).srcAddr = s.srcAddr := by
  unfold raiseFault; split <;> rfl

@[simp] theorem raiseFault_nblocks (c : Cause) (u : Word) (s : State) :
    (raiseFault c u s).nblocks = s.nblocks := by
  unfold raiseFault; split <;> rfl

@[simp] theorem raiseFault_busy (c : Cause) (u : Word) (s : State) :
    (raiseFault c u s).busy = false := by
  unfold raiseFault; split <;> simp_all

@[simp] theorem raiseFault_fault (c : Cause) (u : Word) (s : State) :
    (raiseFault c u s).fault = true := by
  unfold raiseFault; split <;> rfl

@[simp] theorem raiseFault_cause (c : Cause) (u : Word) (s : State) :
    (raiseFault c u s).cause = c := by
  unfold raiseFault; split <;> rfl

@[simp] theorem raiseFault_faultInfo (c : Cause) (u : Word) (s : State) :
    (raiseFault c u s).faultInfo = u := by
  unfold raiseFault; split <;> rfl

@[simp] theorem raiseFault_curAddr (c : Cause) (u : Word) (s : State) :
    (raiseFault c u s).curAddr = s.curAddr := by
  unfold raiseFault; split <;> rfl

@[simp] theorem raiseFault_remain (c : Cause) (u : Word) (s : State) :
    (raiseFault c u s).remain = s.remain := by
  unfold raiseFault; split <;> rfl

@[simp] theorem raiseFault_mem (c : Cause) (u : Word) (s : State) :
    (raiseFault c u s).mem = s.mem := by
  unfold raiseFault; split <;> rfl

@[simp] theorem raiseFault_schedule (c : Cause) (u : Word) (s : State) :
    (raiseFault c u s).schedule = s.schedule := by
  unfold raiseFault; split <;> rfl

@[simp] theorem raiseFault_lastRead (c : Cause) (u : Word) (s : State) :
    (raiseFault c u s).lastRead = s.lastRead := by
  unfold raiseFault; split <;> rfl

@[simp] theorem raiseFault_lastByte (c : Cause) (u : Word) (s : State) :
    (raiseFault c u s).lastByte = s.lastByte := by
  unfold raiseFault; split <;> rfl

@[simp] theorem raiseFault_draws (c : Cause) (u : Word) (s : State) :
    (raiseFault c u s).draws = if s.busy then s.draws + 8 else s.draws := by
  unfold raiseFault; split <;> simp_all

end Sys2Proof.Machine
end

