-- ==== Sys2Proof/Laws/Operands.lean ====
section
/-! SUPPORT. Lanes of a vector, and reading a vector register or a hash word after a write. -/

namespace Sys2Proof

@[simp] theorem Vec.elem_zero (v : Vec) : v.elem 0 = v.l0 := rfl
@[simp] theorem Vec.elem_one (v : Vec) : v.elem 1 = v.l1 := rfl
@[simp] theorem Vec.elem_two (v : Vec) : v.elem 2 = v.l2 := rfl
@[simp] theorem Vec.elem_three (v : Vec) : v.elem 3 = v.l3 := rfl

theorem Vec.eq_of_elem {a b : Vec} (h : ∀ e, a.elem e = b.elem e) : a = b := by
  obtain ⟨a0, a1, a2, a3⟩ := a
  obtain ⟨b0, b1, b2, b3⟩ := b
  have h0 := h 0
  have h1 := h 1
  have h2 := h 2
  have h3 := h 3
  simp only [Vec.elem_zero, Vec.elem_one, Vec.elem_two, Vec.elem_three] at h0 h1 h2 h3
  subst h0 h1 h2 h3
  rfl

namespace Machine

@[simp] theorem readV_writeV_same (s : State) (r : VReg) (x : Vec) : (s.writeV r x).readV r = x := by
  simp [State.readV]

theorem readV_writeV_ne (s : State) {r q : VReg} (x : Vec) (h : q ≠ r) : (s.writeV r x).readV q = s.readV q := by
  have : r.val ≠ q.val := fun e => h (Fin.ext e.symm)
  simp [State.readV, this]

/-- What a vector register holds after any write to one. -/
theorem readV_writeV (s : State) (r q : VReg) (x : Vec) :
    (s.writeV r x).readV q = if q = r then x else s.readV q := by
  split
  · next h => subst h; exact readV_writeV_same s q x
  · next h => exact readV_writeV_ne s x h

@[simp] theorem readHash_writeHash_same (s : State) (i : Fin 8) (x : Word) : (s.writeHash i x).readHash i = x := by
  simp [State.readHash]

end Machine

end Sys2Proof
end

