-- ==== Sys2Proof/Laws/PerInstr.lean ====
section
/-! SUPPORT. Per instruction: its word has the fixed bits of its own row of the opcode map (30_encoding R103). -/

namespace Sys2Proof.Laws.EncodingRow

/-- The pattern and mask of an instruction's row (30_encoding R103). -/
def row : Instr → Word × Word
  | .sha256h .. => (0x5E004000#32, 0xFFE0FC00#32)
  | .sha256h2 .. => (0x5E005000#32, 0xFFE0FC00#32)
  | .sha256su1 .. => (0x5E006000#32, 0xFFE0FC00#32)
  | .sha256su0 .. => (0x5E282800#32, 0xFFFFFC00#32)
  | .add .. => (0x4EA08400#32, 0xFFE0FC00#32)
  | .orr .. => (0x4EA01C00#32, 0xFFE0FC00#32)
  | .rev32 .. => (0x6E200800#32, 0xFFFFFC00#32)

/-- The word of i has the fixed bits of i's row. -/
def Statement (i : Instr) : Prop := encode i &&& (row i).2 = (row i).1

/-- A register field has no bit outside its place. -/
theorem field_and_mask (lo : Nat) (m : Word) (r : VReg) (h : ∀ k < 5, m.getLsbD (lo + k) = false) :
    bitsAt lo (regBits r) &&& m = 0 := by
  ext i hi
  simp only [bitsAt, BitVec.getElem_and, BitVec.getElem_shiftLeft]
  by_cases h1 : i < lo
  · simp [h1]
  · by_cases h2 : i - lo < 5
    · have := h (i - lo) h2
      rw [show lo + (i - lo) = i by omega, BitVec.getLsbD_eq_getElem hi] at this
      simp [this]
    · simp [h1, BitVec.getLsbD_of_ge _ _ (Nat.le_of_not_lt h2)]

theorem and_or_distrib (x y m : Word) : (x ||| y) &&& m = x &&& m ||| y &&& m := by
  ext i hi
  simp [Bool.and_or_distrib_right]

theorem sha256h (rd rn rm : VReg) : Statement (.sha256h rd rn rm) := by
  have hd := field_and_mask 0 0xFFE0FC00#32 rd (by decide)
  have hn := field_and_mask 5 0xFFE0FC00#32 rn (by decide)
  have hm := field_and_mask 16 0xFFE0FC00#32 rm (by decide)
  simp only [Statement, row, encode, encodeSha3, and_or_distrib, hd, hn, hm]
  decide

theorem sha256h2 (rd rn rm : VReg) : Statement (.sha256h2 rd rn rm) := by
  have hd := field_and_mask 0 0xFFE0FC00#32 rd (by decide)
  have hn := field_and_mask 5 0xFFE0FC00#32 rn (by decide)
  have hm := field_and_mask 16 0xFFE0FC00#32 rm (by decide)
  simp only [Statement, row, encode, encodeSha3, and_or_distrib, hd, hn, hm]
  decide

theorem sha256su1 (rd rn rm : VReg) : Statement (.sha256su1 rd rn rm) := by
  have hd := field_and_mask 0 0xFFE0FC00#32 rd (by decide)
  have hn := field_and_mask 5 0xFFE0FC00#32 rn (by decide)
  have hm := field_and_mask 16 0xFFE0FC00#32 rm (by decide)
  simp only [Statement, row, encode, encodeSha3, and_or_distrib, hd, hn, hm]
  decide

theorem sha256su0 (rd rn : VReg) : Statement (.sha256su0 rd rn) := by
  have hd := field_and_mask 0 0xFFFFFC00#32 rd (by decide)
  have hn := field_and_mask 5 0xFFFFFC00#32 rn (by decide)
  simp only [Statement, row, encode, encodeSha2, and_or_distrib, hd, hn]
  decide

theorem add (rd rn rm : VReg) : Statement (.add rd rn rm) := by
  have hd := field_and_mask 0 0xFFE0FC00#32 rd (by decide)
  have hn := field_and_mask 5 0xFFE0FC00#32 rn (by decide)
  have hm := field_and_mask 16 0xFFE0FC00#32 rm (by decide)
  simp only [Statement, row, encode, encodeThreeSame, and_or_distrib, hd, hn, hm]
  decide

theorem orr (rd rn rm : VReg) : Statement (.orr rd rn rm) := by
  have hd := field_and_mask 0 0xFFE0FC00#32 rd (by decide)
  have hn := field_and_mask 5 0xFFE0FC00#32 rn (by decide)
  have hm := field_and_mask 16 0xFFE0FC00#32 rm (by decide)
  simp only [Statement, row, encode, encodeThreeSame, and_or_distrib, hd, hn, hm]
  decide

theorem rev32 (rd rn : VReg) : Statement (.rev32 rd rn) := by
  have hd := field_and_mask 0 0xFFFFFC00#32 rd (by decide)
  have hn := field_and_mask 5 0xFFFFFC00#32 rn (by decide)
  simp only [Statement, row, encode, encodeTwoMisc, and_or_distrib, hd, hn]
  decide

end Sys2Proof.Laws.EncodingRow
end

