-- ==== Sys2Proof/Laws/Platform.lean ====
section
/-! SUPPORT. What an event on a platform can do: it is an event of one unit, and the others keep their states. -/

namespace Sys2Proof.Machine

/-- What is done to one unit gives that unit its next state and leaves every other unit as it is. -/
theorem onUnit_cases {n : Nat} {u : Fin n} {f : State → Host.Outcome State Fault Refusal} {p q : Vector State n}
    (h : onUnit u f p = .next q) : ∃ s, f p[u.val] = .next s ∧ q = p.set u.val s := by
  unfold onUnit at h
  split at h
  · next s hs => exact ⟨s, hs, by simpa using h.symm⟩
  · cases h
  · cases h

/-- An event on a platform that answers changes the state of one unit at most (60_exceptions R271: units share no state). -/
theorem platformWith_cases {n : Nat} {m : Nat} {base : Nat → Nat} {e : PlatformEvent n} {p q : Vector State n}
    (h : platformWith m base e p = .next q) : ∃ (u : Fin n) (s : State), q = p.set u.val s := by
  unfold platformWith at h
  split at h
  · split at h
    · obtain ⟨s, -, hq⟩ := onUnit_cases h
      exact ⟨_, s, hq⟩
    · cases h
  · split at h
    · obtain ⟨s, -, hq⟩ := onUnit_cases h
      exact ⟨_, s, hq⟩
    · cases h
  · obtain ⟨s, -, hq⟩ := onUnit_cases h
    exact ⟨_, s, hq⟩

/-- The unit an address is decoded to has it in its window. -/
theorem inWindow_of_unitAt {n : Nat} {base : Nat → Nat} {addr : Nat} {u : Fin n} (h : unitAt base addr = some u) :
    inWindow (base u.val) addr = true := by
  simpa using List.find?_some h

end Sys2Proof.Machine
end

