-- ==== Sys2Proof/Laws/Step.lean ====
section
/-! SUPPORT. What each operation that can answer a next state can do, said once: an instruction, the instruction port, a
host access, an event, a step. -/

namespace Sys2Proof.Machine

/-- An instruction always answers a next state and writes its Rd alone. -/
theorem exec_writes_rd (i : Instr) (s : State) : ∃ x, exec i s = .next (s.writeV i.rd x) := by
  cases i <;> exact ⟨_, rfl⟩

/-- The instruction port: ignored, an instruction executed, or UNDEFINED_INSTRUCTION raised. -/
theorem writeInstr_cases {w : Word} {s t : State} (h : writeInstr w s = .next t) :
    (s.fault = true ∧ t = s) ∨
    (s.fault = false ∧ ∃ i, decode w = .ok i ∧ exec i s = .next t) ∨
    (s.fault = false ∧ ∃ u, decode w = .error (.undefined u) ∧ t = raiseFault .undefinedInstruction u s) := by
  unfold writeInstr at h
  split at h
  · next hf => exact .inl ⟨hf, by simpa using h.symm⟩
  · next hf =>
    have hf : s.fault = false := by simpa using hf
    split at h
    · next i hi => exact .inr (.inl ⟨hf, i, hi, h⟩)
    · next u hu => exact .inr (.inr ⟨hf, u, hu, by simpa using h.symm⟩)

theorem unlessBusy_of_busy {s : State} (f : State) (h : s.busy = true) : unlessBusy f s = s := by
  simp [unlessBusy, h]

theorem unlessBusy_of_not_busy {s : State} (f : State) (h : s.busy = false) : unlessBusy f s = f := by
  simp [unlessBusy, h]

theorem writeCtrl_of_busy {s : State} (v : Word) (h : s.busy = true) : writeCtrl v s = s := by
  simp [writeCtrl, h]

theorem writeCtrl_of_fault {s : State} (v : Word) (h : s.fault = true) : writeCtrl v s = s := by
  simp [writeCtrl, h]

/-- A CTRL write to an idle unit: nothing, INIT, START, or INIT and then START. -/
theorem writeCtrl_of_idle {s : State} (v : Word) (hb : s.busy = false) (hf : s.fault = false) :
    writeCtrl v s =
      match v.getLsbD 1, v.getLsbD 0 with
      | false, false => s
      | true, false => initHash s
      | false, true => start s
      | true, true => start (initHash s) := by
  unfold writeCtrl
  rw [hb, hf]
  cases v.getLsbD 1 <;> cases v.getLsbD 0 <;> rfl

/-- A host write that answers is a write to a register of the block. -/
theorem hostWrite_cases {off width : Nat} {v : Word} {s t : State} (h : hostWrite off width v s = .next t) :
    ∃ r, regAt off width = .ok r ∧ writeReg r v s = .next t := by
  unfold hostWrite at h
  split at h
  · next r hr => exact ⟨r, hr, h⟩
  · cases h

/-- A host read that answers is a read of a register of the block. -/
theorem hostRead_cases {off width : Nat} {s t : State} (h : hostRead off width s = .next t) :
    ∃ r, regAt off width = .ok r ∧ t = readReg r s := by
  unfold hostRead at h
  split at h
  · next r hr => exact ⟨r, hr, by simpa using h.symm⟩
  · cases h

/-- A register read leaves everything but what the host sees and the count of free values. -/
theorem readReg_cases (r : BlockReg) (s : State) :
    ∃ x n, readReg r s = { s with lastRead := x, draws := n } := by
  cases r with
  | state i =>
    cases hb : s.busy
    · exact ⟨s.readHash i, s.draws, by simp [readReg, hb]⟩
    · exact ⟨Config.freeWord s.draws, s.draws + 1, by simp [readReg, hb]⟩
  | _ => exact ⟨_, s.draws, rfl⟩

/-- A host write of a message-memory byte that answers. -/
theorem hostMemWrite_cases {m a : Nat} {b : Byte} {s t : State} (h : hostMemWrite m a b s = .next t) :
    a < m ∧ s.inActiveBlocks a = false ∧ t = { s with mem := Memory.write s.mem a b } := by
  unfold hostMemWrite at h
  split at h
  · cases h
  · split at h
    · cases h
    · next h1 h2 => exact ⟨by omega, by simpa using h2, by simpa using h.symm⟩

/-- A host read of a message-memory byte that answers. -/
theorem hostMemRead_cases {m a : Nat} {s t : State} (h : hostMemRead m a s = .next t) :
    a < m ∧ t = { s with lastByte := Memory.read s.mem a } := by
  unfold hostMemRead at h
  split at h
  · cases h
  · next h1 => exact ⟨by omega, by simpa using h.symm⟩

/-- The engine's turn: nothing, a block compressed, or BLOCK_OUT_OF_RANGE raised. -/
theorem engineTurn_cases (m : Nat) (s : State) :
    (engineEnabled s = false ∧ engineTurn m s = s) ∨
    (s.busy = true ∧ s.fault = false ∧ s.curAddr + 64 ≤ m ∧
      engineTurn m s =
        { s with hash := compressBlock s.hash (Memory.readBlock s.mem s.curAddr),
                 curAddr := s.curAddr + 64, remain := s.remain - 1,
                 busy := if s.remain - 1 = 0 then false else s.busy }) ∨
    (s.busy = true ∧ s.fault = false ∧ m < s.curAddr + 64 ∧
      engineTurn m s = raiseFault .blockOutOfRange (BitVec.ofNat 32 s.curAddr) s) := by
  cases he : engineEnabled s
  · exact .inl ⟨rfl, by simp [engineTurn, he]⟩
  · obtain ⟨hb, hf⟩ : s.busy = true ∧ s.fault = false := by simpa [engineEnabled] using he
    by_cases hr : s.curAddr + 64 ≤ m
    · exact .inr (.inl ⟨hb, hf, hr, by simp [engineTurn, he, blockStep, blockInRange, hr]⟩)
    · exact .inr (.inr ⟨hb, hf, by omega, by simp [engineTurn, he, blockStep, blockInRange, hr]⟩)

/-- A step that answers: the engine's turn with nothing scheduled, or the next event. -/
theorem stepWith_cases {m : Nat} {s t : State} (h : stepWith m s = .next t) :
    (s.schedule = [] ∧ t = engineTurn m s) ∨
    (∃ e rest, s.schedule = e :: rest ∧ takeEvent m e { s with schedule := rest } = .next t) := by
  unfold stepWith at h
  split at h
  · next hs => exact .inl ⟨hs, by simpa using h.symm⟩
  · next e rest hs => exact .inr ⟨e, rest, hs, h⟩

/-- A step whose next event is known. -/
theorem step_of_cons {s : State} {e : Event} {rest : List Event} (h : s.schedule = e :: rest) :
    step s = takeEvent Config.memSize e { s with schedule := rest } := by
  simp [step, stepWith, h]

/-- A step with nothing scheduled. -/
theorem step_of_nil {s : State} (h : s.schedule = []) : step s = .next (engineTurn Config.memSize s) := by
  simp [step, stepWith, h]

/-- A step on an offered event is that event taken in the state it was offered to. -/
@[simp] theorem step_offer (e : Event) (s : State) : step (offer e s) = takeEvent Config.memSize e s := rfl

end Sys2Proof.Machine
end

