-- ==== Sys2Proof/Tests/Slice0.lean ====
section
/-! SUPPORT. Small tests whose expected values are the spec's own (95_test_vectors and the examples of the rules), and for
every statement that has hypotheses a state and operands that meet them. -/

namespace Sys2Proof.Tests

open Sys2Proof.Machine

/-! ### Well-formedness: each check of `assemble` refuses an ill-formed line -/

theorem test_wf_accepts : AsmLine.wf ⟨.sha256h, [⟨0, .q⟩, ⟨31, .q⟩, ⟨4, .s4⟩]⟩ = true := by decide

theorem test_wf_operand_count :
    assemble ⟨.rev32, [⟨0, .b16⟩, ⟨1, .b16⟩, ⟨2, .b16⟩]⟩ = .error .operandCount := by decide

/-- 30_encoding R105: an assembler rejects `ADD V0.2S, V1.2S, V2.2S`. -/
theorem test_wf_arrangement : assemble ⟨.add, [⟨0, .s2⟩, ⟨1, .s2⟩, ⟨2, .s2⟩]⟩ = .error .arrangement := by decide

theorem test_wf_register_number : assemble ⟨.orr, [⟨0, .b16⟩, ⟨32, .b16⟩, ⟨2, .b16⟩]⟩ = .error .registerNumber := by
  decide

theorem test_wf_is_assembles (l : AsmLine) : l.wf = true ↔ ∃ i, assemble l = .ok i := by
  unfold AsmLine.wf
  cases assemble l <;> simp

/-- 30_encoding R106: MOV is ORR with Rm = Rn. -/
theorem test_mov_alias : assemble ⟨.mov, [⟨5, .b16⟩, ⟨0, .b16⟩]⟩ = .ok (.orr 5 0 0) := by decide

theorem test_instr_wf (i : Instr) : i.wf = true := by
  cases i <;> simp [Instr.wf, Instr.regs]

/-! ### Decoding and encoding: words written out from 30_encoding R101, R103 -/

/-- SHA256H Q0, Q1, V4.4S: 01011110 00 0 00100 0 100 00 00001 00000. -/
theorem test_decode_sha256h :
    decode 0b01011110_00_0_00100_0_100_00_00001_00000#32 = .ok (.sha256h 0 1 4) ∧
    encode (.sha256h 0 1 4) = 0x5E044020#32 := by decide

/-- SHA256H2 Q1, Q5, V4.4S: 01011110 00 0 00100 0 101 00 00101 00001. -/
theorem test_decode_sha256h2 :
    decode 0b01011110_00_0_00100_0_101_00_00101_00001#32 = .ok (.sha256h2 1 5 4) ∧
    encode (.sha256h2 1 5 4) = 0x5E0450A1#32 := by decide

/-- SHA256SU1 V16.4S, V18.4S, V19.4S: 01011110 00 0 10011 0 110 00 10010 10000. -/
theorem test_decode_sha256su1 :
    decode 0b01011110_00_0_10011_0_110_00_10010_10000#32 = .ok (.sha256su1 16 18 19) ∧
    encode (.sha256su1 16 18 19) = 0x5E136250#32 := by decide

/-- SHA256SU0 V16.4S, V16.4S: 01011110 00 10100 00010 10 10000 10000. -/
theorem test_decode_sha256su0 :
    decode 0b01011110_00_10100_00010_10_10000_10000#32 = .ok (.sha256su0 16 16) ∧
    encode (.sha256su0 16 16) = 0x5E282A10#32 := by decide

/-- ADD V0.4S, V1.4S, V2.4S: 0 1 0 01110 10 1 00010 10000 1 00001 00000. -/
theorem test_decode_add :
    decode 0b0_1_0_01110_10_1_00010_10000_1_00001_00000#32 = .ok (.add 0 1 2) ∧
    encode (.add 0 1 2) = 0x4EA28420#32 := by decide

/-- ORR V0.16B, V1.16B, V2.16B: 0 1 0 01110 10 1 00010 00011 1 00001 00000. -/
theorem test_decode_orr :
    decode 0b0_1_0_01110_10_1_00010_00011_1_00001_00000#32 = .ok (.orr 0 1 2) ∧
    encode (.orr 0 1 2) = 0x4EA21C20#32 ∧ encode (.mov 5 0) = 0x4EA01C05#32 := by decide

/-- REV32 V0.16B, V1.16B: 0 1 1 01110 00 10000 00000 10 00001 00000. -/
theorem test_decode_rev32 :
    decode 0b0_1_1_01110_00_10000_00000_10_00001_00000#32 = .ok (.rev32 0 1) ∧
    encode (.rev32 0 1) = 0x6E200820#32 := by decide

/-- 95_test_vectors 5.8 and 30_encoding R104: near misses of every row. -/
theorem test_decode_undefined :
    decode 0x5E007000#32 = .error (.undefined 0x5E007000#32) ∧ decode 0x5E000000#32 = .error (.undefined 0x5E000000#32) ∧
    decode 0x0EA01C00#32 = .error (.undefined 0x0EA01C00#32) ∧
    decode 0x2E200800#32 = .error (.undefined 0x2E200800#32) ∧
    decode 0x5E281800#32 = .error (.undefined 0x5E281800#32) := by decide

theorem test_decode_table_word :
    decodeTableWord 32 0x5E282800 = some (.sha256su0 0 0) ∧ decodeTableWord 32 0xFFFFFFFF = none := by decide

/-- 95_test_vectors P3, words 1..12 and 93..96 of the port program. -/
theorem test_port_program_words :
    portProgram.length = 96 ∧
    (portProgram.take 12).map encode =
      [0x6E2008C6, 0x6E2008E7, 0x6E200908, 0x6E200929, 0x4EA01C02, 0x4EA11C23, 0x4EB084C4, 0x5E2828E6, 0x5E096106,
       0x4EA01C05, 0x5E044020, 0x5E0450A1] ∧
    (portProgram.drop 90).map encode =
      [0x4EBF8524, 0x4EA01C05, 0x5E044020, 0x5E0450A1, 0x4EA28400, 0x4EA38421] := by decide

/-! ### The instructions: 95_test_vectors section 5 -/

/-- The state after reset with some vector registers set. -/
def withRegs (l : List (VReg × Vec)) : State := l.foldl (fun s p => s.writeV p.1 p.2) State.reset

/-- Register r after an instruction on such a state. -/
def regAfter (i : Instr) (l : List (VReg × Vec)) (r : VReg) : Option Vec :=
  (nextState (exec i (withRegs l))).map (·.readV r)

theorem test_add_carry_lost :
    regAfter (.add 0 1 2)
      [(1, ⟨0xFFFFFFFF, 0x80000000, 1, 0x7FFFFFFF⟩), (2, ⟨1, 0x80000000, 0xFFFFFFFF, 1⟩)] 0 =
      some ⟨0, 0, 0, 0x80000000⟩ := by decide

theorem test_add_same_register :
    regAfter (.add 0 0 0) [(0, ⟨0x80000001, 2, 3, 0xFFFFFFFF⟩)] 0 = some ⟨2, 4, 6, 0xFFFFFFFE⟩ := by decide

theorem test_orr_general :
    regAfter (.orr 0 1 2)
      [(1, ⟨0xF0F0F0F0, 0, 0x12345678, 0xFFFF0000⟩), (2, ⟨0x0F0F0F0F, 0, 0x87654321, 0x0000FFFF⟩)] 0 =
      some ⟨0xFFFFFFFF, 0, 0x97755779, 0xFFFFFFFF⟩ := by decide

theorem test_mov_copies :
    regAfter (.mov 5 0) [(0, ⟨0x12345678, 0, 0xFFFFFFFF, 0x80000001⟩)] 5 =
      some ⟨0x12345678, 0, 0xFFFFFFFF, 0x80000001⟩ := by decide

theorem test_rev32_bytes :
    regAfter (.rev32 0 1) [(1, ⟨0x00112233, 0x44556677, 0x8899AABB, 0xCCDDEEFF⟩)] 0 =
      some ⟨0x33221100, 0x77665544, 0xBBAA9988, 0xFFEEDDCC⟩ := by decide

theorem test_rev32_in_place :
    regAfter (.rev32 6 6) [(6, ⟨0x80636261, 0, 0, 0x18000000⟩)] 6 = some ⟨0x61626380, 0, 0, 0x18⟩ := by decide

theorem test_sha256su0_n0_reaches_lane3 :
    regAfter (.sha256su0 0 1) [(1, ⟨0x80000000, 0, 0, 0⟩)] 0 = some ⟨0, 0, 0, 0x11002000⟩ := by decide

theorem test_sha256su0_same_register :
    regAfter (.sha256su0 16 16) [(16, ⟨1, 2, 3, 4⟩)] 16 =
      some ⟨0x04008001, 0x0600C002, 0x08010003, 0x02004004⟩ := by decide

theorem test_sha256su1_abc :
    regAfter (.sha256su1 16 18 19) [(16, ⟨0x61626380, 0, 0, 0⟩), (19, ⟨0, 0, 0, 0x18⟩)] 16 =
      some ⟨0x61626380, 0x000F0000, 0x7DA86405, 0x600003C6⟩ := by decide

theorem test_sha256su1_same_register :
    regAfter (.sha256su1 7 7 7) [(7, ⟨1, 2, 3, 4⟩)] 7 =
      some ⟨0x0001E003, 0x00028005, 0xCC01E07F, 0x100220A6⟩ := by decide

theorem test_sha256h_abc :
    regAfter (.sha256h 0 1 4)
      [(0, state0Of h0), (1, state1Of h0), (4, ⟨0xA3EC9318, 0x71374491, 0xB5C0FBCF, 0xE9B5DBA5⟩)] 0 =
      some ⟨0xD550F666, 0xC8C347A7, 0x5A6AD9AD, 0x5D6AEBCD⟩ := by decide

theorem test_sha256h_same_register :
    regAfter (.sha256h 0 0 0) [(0, ⟨1, 2, 3, 4⟩)] 0 =
      some ⟨0x45F8D4EB, 0x20501B16, 0x42BA4AFA, 0x4428048A⟩ := by decide

theorem test_sha256h2_abc :
    regAfter (.sha256h2 1 5 4)
      [(5, state0Of h0), (1, state1Of h0), (4, ⟨0xA3EC9318, 0x71374491, 0xB5C0FBCF, 0xE9B5DBA5⟩)] 1 =
      some ⟨0x24E00850, 0xF92939EB, 0x78CE7989, 0xFA2A4622⟩ := by decide

theorem test_sha256h2_same_register :
    regAfter (.sha256h2 0 0 0) [(0, ⟨1, 2, 3, 4⟩)] 0 =
      some ⟨0xF4F76D8E, 0xB1D0AC28, 0x2D704189, 0x0420008B⟩ := by decide

/-- 70_reset_and_hazards R310: without the snapshot, SHA256H2 gives the defined wrong value. -/
theorem test_missing_snapshot :
    hashQuad (hashQuad (state0Of h0) (state1Of h0) ⟨0xA3EC9318, 0x71374491, 0xB5C0FBCF, 0xE9B5DBA5⟩ true) (state1Of h0)
      ⟨0xA3EC9318, 0x71374491, 0xB5C0FBCF, 0xE9B5DBA5⟩ false =
      ⟨0x3DA4897D, 0xE6065E5F, 0x670B4EB2, 0xB2453CB5⟩ := by decide

/-- 95_test_vectors 5.4. -/
theorem test_mixing_functions :
    sigma0 0x6A09E667 = 0xBA0CF582 ∧ sigma1 0x6A09E667 = 0xCFE5DA3C ∧ bigSigma0 0x6A09E667 = 0xCE20B47E ∧
    bigSigma1 0x6A09E667 = 0x55B65510 ∧ ch 0xFF00FF00 0x12345678 0x9ABCDEF0 = 0x12BC56F0 ∧
    maj 0xFF00FF00 0x12345678 0x9ABCDEF0 = 0x9A34DE70 := by decide

/-! ### The engine, the port and the register block -/

/-- The one padded block of "abc" (95_test_vectors section 3). -/
def abcBlock : Block := blockOf (padMessage [0x61, 0x62, 0x63]) 0

/-- 95_test_vectors section 3: the state after the "abc" block, and the last row of its message schedule. -/
theorem test_compress_abc :
    compressBlock h0 abcBlock =
      #v[0xBA7816BF, 0x8F01CFEA, 0x414140DE, 0x5DAE2223, 0xB00361A3, 0x96177A9C, 0xB410FF61, 0xF20015AD] ∧
    (messageSchedule abcBlock).drop 60 = [0xA43FCF15, 0x668B2FF8, 0xEEABA2CC, 0x12B1EDEB] := by decide +kernel

/-- 95_test_vectors V-EMPTY, first and last bytes of the digest. -/
theorem test_digest_empty :
    (match computeHash [] with
      | .ok d => d.take 4 ++ d.drop 28
      | .error _ => []) = [0xE3, 0xB0, 0xC4, 0x42, 0x78, 0x52, 0xB8, 0x55] := by decide +kernel

/-- 95_test_vectors 5.11: z, the number of blocks, and the last two trailer bytes, for L = 0, 55, 56, 63, 64, 120. -/
theorem test_padding :
    zeroFill 0 = 55 ∧ zeroFill 55 = 0 ∧ zeroFill 56 = 63 ∧ zeroFill 63 = 56 ∧ zeroFill 64 = 55 ∧ zeroFill 120 = 63 ∧
    blockCount 0 = 1 ∧ blockCount 55 = 1 ∧ blockCount 56 = 2 ∧ blockCount 63 = 2 ∧ blockCount 64 = 2 ∧
    blockCount 120 = 3 ∧ (padMessage (List.replicate 56 0x61)).drop 126 = [0x01, 0xC0] ∧
    (padMessage (List.replicate 55 0x61)).drop 54 = [0x61, 0x80, 0, 0, 0, 0, 0, 0, 0x01, 0xB8] := by decide

/-- An idle unit with a command of n blocks at a ready to start. -/
def ready (a n : Word) : State := { State.reset with srcAddr := a, nblocks := n }

/-- What a host sees after a list of events in a memory of 0x10000 bytes: STATUS, FAULT_INFO and the last value read. -/
def seen (s : State) (es : List Event) : Option (Word × Word × Word) :=
  let r := es.foldl (fun o e => o.bind fun t => nextState (takeEvent 0x10000 e t)) (some s)
  r.map fun t => (t.statusWord, t.faultInfo, t.lastRead)

/-- 95_test_vectors P5a: ADD runs, 0x5E007000 faults, later writes are ignored, and V2 lane 0 is still readable. -/
theorem test_undefined_word :
    seen (withRegs [(0, ⟨1, 2, 3, 4⟩), (1, ⟨5, 6, 7, 8⟩)])
      [.regWrite 0x014 32 0x4EA18402, .regWrite 0x014 32 0x5E007000, .regWrite 0x014 32 0x4EA08402,
       .regWrite 0x000 32 3, .regRead 0x120 32] = some (0x12, 0x5E007000, 6) := by decide

/-- 95_test_vectors 5.10: a block at 0xFFF0 is out of range, and the STATUS read says so. -/
theorem test_block_out_of_range :
    seen (ready 0xFFF0 1) [.regWrite 0x000 32 3, .engine, .regRead 0x004 32] = some (0x22, 0xFFF0, 0x22) := by
  decide

/-- 95_test_vectors P5b: the block at 0xFFC0 is in range, the next is not. -/
theorem test_command_runs_off_memory :
    seen (ready 0xFFC0 2) [.regWrite 0x000 32 3, .engine, .regRead 0x004 32] = some (0x01, 0, 0x01) ∧
    seen (ready 0xFFC0 2) [.regWrite 0x000 32 3, .engine, .engine] = some (0x22, 0x10000, 0) := by decide

/-- 95_test_vectors 5.9: INIT alone starts nothing, and a command of no blocks completes at once. -/
theorem test_ctrl_init_and_empty_command :
    seen State.reset [.regWrite 0x000 32 2, .regRead 0x020 32] = some (0, 0, 0x6A09E667) ∧
    seen State.reset [.regWrite 0x000 32 3, .regRead 0x03C 32] = some (0, 0, 0x5BE0CD19) := by decide

/-- 95_test_vectors 5.9: while BUSY = 1 a write to SRC_ADDR is ignored. -/
theorem test_busy_ignores_writes :
    seen (ready 0 1) [.regWrite 0x000 32 3, .regWrite 0x008 32 0x40, .regRead 0x008 32] = some (1, 0, 0) := by
  decide

/-- 60_exceptions R263, R265: after a fault SRC_ADDR may be written again; a reset clears the record. -/
theorem test_after_fault :
    seen State.reset [.regWrite 0x014 32 0, .regWrite 0x008 32 0x40, .regRead 0x008 32] = some (0x12, 0, 0x40) ∧
    seen State.reset [.regWrite 0x014 32 0, .reset, .regRead 0x000 32] = some (0, 0, 0) := by decide

/-- 44_host_driver R243 steps 5, 6: the host polls until BUSY = 0, sees FAULT in the word it read, and otherwise goes on. -/
theorem test_poll_loop :
    (match driveCommand 0x10000 3 ⟨0xFFF0, 1, [0, 1]⟩ State.reset with
      | .ok _ => none
      | .error e => some e) = some (.unitFault 0x22) ∧
    (match driveCommand 0x10000 3 ⟨0xFFC0, 1, [0, 0]⟩ State.reset with
      | .ok _ => none
      | .error e => some e) = some .stillBusy ∧
    (match pollUntilIdle 0x10000 [3, 1] State.reset with
      | .ok (w, _) => some w
      | .error _ => none) = some 0 := by decide

/-- 44_host_driver R243, the split: the parts of 56 bytes of 'a' placed at two addresses, the second the trailer's block. -/
theorem test_place_parts :
    let es := placeParts [⟨0x3000, 1, []⟩, ⟨0x1000, 1, []⟩] (padMessage (List.replicate 56 0x61))
    es.length = 128 ∧ es.getD 56 .reset = .memWrite 0x3038 0x80 ∧ es.getD 127 .reset = .memWrite 0x103F 0xC0 := by
  decide +kernel

/-- 95_test_vectors P3: the host's VREG writes of V6 for the "abc" block, whose raw0 is 0x80636261, 0, 0, 0. -/
theorem test_port_block_events :
    (portBlockEvents abcBlock).length = 16 ∧
    (portBlockEvents abcBlock).take 2 = [.regWrite 0x160 32 0x80636261, .regWrite 0x164 32 0] ∧
    portResultOffsets.drop 6 = [0x118, 0x11C] := by decide +kernel

/-- What the host sees at an address on a platform of two units at 0x4000 and 0x5000, the second with V0 set. -/
def platformSees (addr : Nat) : Option Word :=
  match platformWith 0x10000 (fun u => 0x4000 + 0x1000 * u) (.busRead addr 32)
      #v[State.reset, withRegs [(0, ⟨7, 8, 9, 10⟩)]] with
  | .next p => some (if addr < 0x5000 then p[0].lastRead else p[1].lastRead)
  | .fault _ => none
  | .refused _ => none

/-- 00_scope R5, 60_exceptions R271: an address is decoded to its unit; one in no window is refused. -/
theorem test_platform_address :
    platformSees 0x4104 = some 0 ∧ platformSees 0x5104 = some 8 ∧ platformSees 0x5300 = none ∧
    platformSees 0x3FFC = none := by decide

/-- 10_state R46: each refused access by its name. -/
theorem test_refused_accesses :
    regAt 0x004 16 = .error .accessWidth ∧ regAt 0x006 32 = .error .misaligned ∧
    regAt 0x018 32 = .error .reservedOffset ∧ regAt 0x0FC 32 = .error .reservedOffset ∧
    regAt 0x300 32 = .error .outsideWindow ∧ regAt 0x2FC 32 = .ok (.vreg 31 3) := by decide

/-- 20_memory R80: write, overwrite, and write 0 again, which leaves no entry. -/
theorem test_memory :
    Memory.write (Memory.write [] 7 1) 3 2 = [(3, 2), (7, 1)] ∧ Memory.write [(3, 2), (7, 1)] 3 0 = [(7, 1)] ∧
    Memory.read [(3, 2), (7, 1)] 7 = 1 ∧ Memory.read [(3, 2), (7, 1)] 5 = 0 ∧
    Memory.wf [(7, 1), (3, 2)] = false := by decide

/-- The next step runs the word that withFetchWord places. -/
theorem test_fetch_word : step (State.reset.withFetchWord 32 0x5E282A10) = exec (.sha256su0 16 16) State.reset := rfl

/-! ### Witnesses: states and operands that meet the hypotheses of each statement -/

/-- The unit with a command of one block at 0 under way. -/
def busy1 : State := { State.reset with nblocks := 1, remain := 1, busy := true }

/-- The unit with a fault recorded. -/
def faulted : State := { State.reset with fault := true, cause := .undefinedInstruction, faultInfo := 0xFFFFFFFF }

/-- EncodeOfDecode, at the highest register numbers. -/
theorem witness_encode_of_decode : decode 0x5E1F43FF#32 = .ok (.sha256h 31 31 31) ∧
    decode 0x6E200BFF#32 = .ok (.rev32 31 31) := by decide

/-- OpcodeMap: a word of each row with every field at 31, and a word of none. -/
theorem witness_opcode_map :
    0x5E1F43FF#32 &&& 0xFFE0FC00#32 = 0x5E004000#32 ∧ 0x5E1F53FF#32 &&& 0xFFE0FC00#32 = 0x5E005000#32 ∧
    0x5E1F63FF#32 &&& 0xFFE0FC00#32 = 0x5E006000#32 ∧ 0x5E282BFF#32 &&& 0xFFFFFC00#32 = 0x5E282800#32 ∧
    0x4EBF87FF#32 &&& 0xFFE0FC00#32 = 0x4EA08400#32 ∧ 0x4EBF1FFF#32 &&& 0xFFE0FC00#32 = 0x4EA01C00#32 ∧
    0x6E200BFF#32 &&& 0xFFFFFC00#32 = 0x6E200800#32 ∧
    (0x5E007000#32 &&& 0xFFE0FC00#32 ≠ 0x5E004000#32 ∧ 0x5E007000#32 &&& 0xFFE0FC00#32 ≠ 0x5E005000#32 ∧
     0x5E007000#32 &&& 0xFFE0FC00#32 ≠ 0x5E006000#32 ∧ 0x5E007000#32 &&& 0xFFFFFC00#32 ≠ 0x5E282800#32 ∧
     0x5E007000#32 &&& 0xFFE0FC00#32 ≠ 0x4EA08400#32 ∧ 0x5E007000#32 &&& 0xFFE0FC00#32 ≠ 0x4EA01C00#32 ∧
     0x5E007000#32 &&& 0xFFFFFC00#32 ≠ 0x6E200800#32 ∧ State.reset.fault = false) := by decide

/-- AssemblerSpelling, third clause: MOV, and the highest register numbers. -/
theorem witness_assembler :
    assemble ⟨.mov, [⟨31, .b16⟩, ⟨0, .b16⟩]⟩ = .ok (.orr 31 0 0) ∧
    assemble ⟨.sha256su1, [⟨31, .s4⟩, ⟨31, .s4⟩, ⟨31, .s4⟩]⟩ = .ok (.sha256su1 31 31 31) := by decide

/-- WordOperators: the ends of the ranges of n and k. -/
theorem witness_word_operators : (0 < 32 ∧ 31 < 32) ∧ (1 ≤ 1 ∧ 1 ≤ 31) ∧ ror 1 1 = 0x80000000#32 ∧ ror 1 31 = 2#32 ∧
    shr 0x80000000 31 = 1#32 ∧ shr 1 0 = 1#32 := by decide

/-- MixingFunctions: the end of the range of k. -/
theorem witness_mixing : (31 < 32) ∧ (ch 0x80000000 0x80000000 0).getLsbD 31 = true := by decide

/-- One step of the sixteen-word window of the schedule recurrence (41_sha256_schedule R156). -/
def slide (x : Nat → Word) (k : Nat) : Word :=
  if k < 15 then x (k + 1) else sigma1 (x 14) + x 9 + sigma0 (x 1) + x 0

/-- The window after n steps, from the first words of the "abc" block. -/
def window : Nat → Nat → Word
  | 0 => fun k => if k = 0 then 0x61626380 else if k = 15 then 0x18 else 0
  | n + 1 => slide (window n)

/-- The schedule of the "abc" block, without end. -/
def abcSchedule (t : Nat) : Word := window t 0

theorem window_shift (n k : Nat) (h : k < 16) : window n k = abcSchedule (n + k) := by
  induction k generalizing n with
  | zero => rfl
  | succ k ih =>
    have hs : window (n + 1) k = window n (k + 1) := by
      simp only [window, slide]
      rw [if_pos (by omega)]
    rw [← hs, ih (n + 1) (by omega)]
    congr 1
    omega

/-- ScheduleExpansion: the schedule of "abc" follows the recurrence, and its word 16 is that of 95_test_vectors section 3. -/
theorem witness_schedule :
    (∀ t, 16 ≤ t → abcSchedule t =
      sigma1 (abcSchedule (t - 2)) + abcSchedule (t - 7) + sigma0 (abcSchedule (t - 15)) + abcSchedule (t - 16)) ∧
    abcSchedule 17 = 0x000F0000 := by
  refine ⟨fun t ht => ?_, by decide⟩
  obtain ⟨n, rfl⟩ : ∃ n, t = n + 16 := ⟨t - 16, by omega⟩
  have h : abcSchedule (n + 16) = window (n + 1) 15 := by rw [window_shift _ _ (by omega)]
  rw [h]
  simp only [window, slide]
  rw [if_neg (by omega), window_shift n 14 (by omega), window_shift n 9 (by omega), window_shift n 1 (by omega),
    window_shift n 0 (by omega)]
  rw [show n + 16 - 2 = n + 14 by omega, show n + 16 - 7 = n + 9 by omega, show n + 16 - 15 = n + 1 by omega,
    show n + 16 - 16 = n + 0 by omega]

/-- The hash state after k standard rounds from H0 with inputs 0, 1, 2, … -/
def rounds : Nat → HashState
  | 0 => h0
  | k + 1 => scalarRound (rounds k) (BitVec.ofNat 32 k)

/-- FourRounds: the eight words of such a state, round by round. -/
theorem witness_four_rounds (k : Nat) :
    let t1 := (rounds k)[7] + bigSigma1 (rounds k)[4] + ch (rounds k)[4] (rounds k)[5] (rounds k)[6] + BitVec.ofNat 32 k
    let t2 := bigSigma0 (rounds k)[0] + maj (rounds k)[0] (rounds k)[1] (rounds k)[2]
    (rounds (k + 1))[0] = t1 + t2 ∧ (rounds (k + 1))[1] = (rounds k)[0] ∧ (rounds (k + 1))[2] = (rounds k)[1] ∧
    (rounds (k + 1))[3] = (rounds k)[2] ∧ (rounds (k + 1))[4] = (rounds k)[3] + t1 ∧
    (rounds (k + 1))[5] = (rounds k)[4] ∧ (rounds (k + 1))[6] = (rounds k)[5] ∧ (rounds (k + 1))[7] = (rounds k)[6] :=
  ⟨rfl, rfl, rfl, rfl, rfl, rfl, rfl, rfl⟩

/-- SnapshotStep: the registers of 95_test_vectors P1, V0, V1, V5 and V4, are distinct. -/
theorem witness_snapshot : (0 : VReg) ≠ 1 ∧ (5 : VReg) ≠ 0 ∧ (5 : VReg) ≠ 1 ∧ (4 : VReg) ≠ 0 ∧ (4 : VReg) ≠ 1 ∧
    (4 : VReg) ≠ 5 ∧ (31 : VReg) ≠ 0 ∧ (31 : VReg) ≠ 1 ∧ (31 : VReg) ≠ 5 := by decide

/-- InstructionFrame: each instruction answers a next state. -/
theorem witness_frame :
    (∃ t, exec (.sha256h 31 0 0) busy1 = .next t) ∧ (∃ t, exec (.sha256h2 31 0 0) busy1 = .next t) ∧
    (∃ t, exec (.sha256su1 31 0 0) busy1 = .next t) ∧ (∃ t, exec (.sha256su0 31 0) busy1 = .next t) ∧
    (∃ t, exec (.add 31 0 0) busy1 = .next t) ∧ (∃ t, exec (.orr 31 0 0) busy1 = .next t) ∧
    ∃ t, exec (.rev32 31 0) busy1 = .next t :=
  ⟨⟨_, rfl⟩, ⟨_, rfl⟩, ⟨_, rfl⟩, ⟨_, rfl⟩, ⟨_, rfl⟩, ⟨_, rfl⟩, ⟨_, rfl⟩⟩

/-- ResultFromSources: two states that agree on the sources of ADD V0, V1, V2 and differ on V9 and elsewhere. -/
theorem witness_sources :
    (∀ r ∈ (Instr.add 0 1 2).sources, (withRegs [(1, ⟨1, 2, 3, 4⟩)]).readV r =
      (withRegs [(1, ⟨1, 2, 3, 4⟩), (9, ⟨5, 6, 7, 8⟩)]).readV r) ∧
    (∃ t, exec (.add 0 1 2) (withRegs [(1, ⟨1, 2, 3, 4⟩)]) = .next t) ∧
    ∃ t, exec (.add 0 1 2) (withRegs [(1, ⟨1, 2, 3, 4⟩), (9, ⟨5, 6, 7, 8⟩)]) = .next t :=
  ⟨by decide, ⟨_, rfl⟩, ⟨_, rfl⟩⟩

/-- StepRunsDecodedInstruction, InstrRegister (its three clauses): a defined word and an undefined one, FAULT = 0 in an idle
and a busy unit, and FAULT = 1. -/
theorem witness_instr_port :
    State.reset.fault = false ∧ busy1.fault = false ∧ decode 0x5E1F43FF#32 = .ok (.sha256h 31 31 31) ∧
    decode 0xFFFFFFFF#32 = .error (.undefined 0xFFFFFFFF#32) ∧ faulted.fault = true := by decide

/-- UndefinedWordFault, in an idle and a busy unit. -/
theorem witness_undefined_word :
    State.reset.fault = false ∧ busy1.fault = false ∧ ∀ i, decode 0x5E404000#32 ≠ .ok i := by
  have h : decode 0x5E404000#32 = .error (.undefined 0x5E404000#32) := by decide
  exact ⟨rfl, rfl, fun i hi => by rw [h] at hi; cases hi⟩

/-- FaultEntry: its clause on an idle unit. -/
theorem witness_fault_entry : State.reset.busy = false ∧ busy1.busy = true := by decide

/-- The unit with a command under way whose next block begins at MEM_SIZE - 63, one byte too far. -/
def tooFar : State := { busy1 with curAddr := Config.memSize - 63 }

theorem tooFar_out_of_range : Config.memSize < tooFar.curAddr + 64 := by
  have := Config.memSize_ge
  show Config.memSize < Config.memSize - 63 + 64
  omega

/-- The unit with a command under way whose next block ends exactly at MEM_SIZE. -/
def lastBlock : State := { busy1 with curAddr := Config.memSize - 64 }

theorem lastBlock_in_range : lastBlock.curAddr + 64 ≤ Config.memSize := by
  have := Config.memSize_ge
  show Config.memSize - 64 + 64 ≤ Config.memSize
  omega

/-- The engine's turn raises the fault there. -/
theorem step_tooFar :
    step tooFar = .next (raiseFault .blockOutOfRange (BitVec.ofNat 32 tooFar.curAddr) tooFar) := by
  rw [step_of_nil rfl]
  rcases engineTurn_cases Config.memSize tooFar with ⟨h, -⟩ | ⟨-, -, h, -⟩ | ⟨-, -, -, h⟩
  · exact absurd h (by decide)
  · exact absurd tooFar_out_of_range (by omega)
  · rw [h]

/-- FirstFaultIsRecorded: a fault by an INSTR write, a fault by a block step, and a step after a fault. -/
theorem witness_first_fault :
    (State.reset.fault = false ∧ ∃ t, step (offer (.regWrite 0x014 32 0xFFFFFFFF) State.reset) = .next t ∧
      t.fault = true) ∧
    (tooFar.fault = false ∧ ∃ t, step tooFar = .next t ∧ t.fault = true) ∧
    (faulted.fault = true ∧ (∀ rest, (offer (.regWrite 0x000 32 3) faulted).schedule ≠ .reset :: rest) ∧
      ∃ t, step (offer (.regWrite 0x000 32 3) faulted) = .next t) :=
  ⟨⟨rfl, _, rfl, rfl⟩, ⟨rfl, _, step_tooFar, rfl⟩, rfl, by simp [offer], _, rfl⟩

/-- OnlyResetClearsFault: a reset of a unit with FAULT = 1. -/
theorem witness_only_reset : faulted.fault = true ∧ ∃ t, step (offer .reset faulted) = .next t ∧ t.fault = false :=
  ⟨rfl, takeReset faulted, rfl, by simp⟩

/-- RegisterMap, its last clauses: an offset inside, the addresses just outside a window, and two units side by side. -/
theorem witness_addresses :
    0x2FC < 0x300 ∧ (0x3FFF < 0x4000 ∨ 0x4000 + 0x300 ≤ 0x3FFF) ∧ (0x4300 < 0x4000 ∨ 0x4000 + 0x300 ≤ 0x4300) ∧
    ∀ w : Fin 2, w ≠ 1 → inWindow (0x4000 + 0x300 * w.val) (0x4000 + 0x300 * 1 + 0x000) = false := by decide

/-- RegisterMap, its clause on the registers: the last offset of each range. -/
theorem witness_register_map :
    regAt 0x014 32 = .ok .instr ∧ regAt 0x020 32 = .ok (.state 0) ∧ regAt 0x03C 32 = .ok (.state 7) ∧
    regAt 0x100 32 = .ok (.vreg 0 0) ∧ regAt 0x2FC 32 = .ok (.vreg 31 3) := by decide

/-- What RefusedAccesses calls a refused access. -/
def refusedAccess (off width : Nat) : Prop :=
  width ≠ 32 ∨ off % 4 ≠ 0 ∨ off = 0x018 ∨ off = 0x01C ∨ (0x040 ≤ off ∧ off ≤ 0x0FC) ∨ 0x300 ≤ off

/-- RefusedAccesses: each way to be refused at the ends of its range, and the admitted offsets beside them. -/
theorem witness_refused_accesses :
    (refusedAccess 0x004 8 ∧ refusedAccess 0x001 32 ∧ refusedAccess 0x018 32 ∧ refusedAccess 0x01C 32 ∧
      refusedAccess 0x040 32 ∧ refusedAccess 0x0FC 32 ∧ refusedAccess 0x300 32) ∧
    ¬ refusedAccess 0x000 32 ∧ ¬ refusedAccess 0x014 32 ∧ ¬ refusedAccess 0x020 32 ∧ ¬ refusedAccess 0x03C 32 ∧
    ¬ refusedAccess 0x100 32 ∧ ¬ refusedAccess 0x2FC 32 := by
  refine ⟨⟨?_, ?_, ?_, ?_, ?_, ?_, ?_⟩, ?_, ?_, ?_, ?_, ?_, ?_⟩ <;> unfold refusedAccess <;> decide

/-- CtrlCommands, SrcAddrAndNblocks, StateRegisters, EngineAndPortIndependent: a busy unit, a faulted one, an idle one. -/
theorem witness_busy_and_idle :
    busy1.busy = true ∧ faulted.fault = true ∧ State.reset.busy = false ∧ State.reset.fault = false ∧
    (3#32).getLsbD 0 = true ∧ (3#32).getLsbD 1 = true := by decide

/-- VregWindow: other lanes and other registers. -/
theorem witness_vreg_window : (3 : Fin 4) ≠ 0 ∧ (31 : VReg) ≠ 0 := by decide

/-- ReadsHaveNoEffect: a read of the last lane, and a STATE read while BUSY = 1. -/
theorem witness_reads :
    (∃ t, step (offer (.regRead 0x2FC 32) State.reset) = .next t) ∧
    ∃ t, step (offer (.regRead 0x020 32) busy1) = .next t := ⟨⟨_, rfl⟩, ⟨_, rfl⟩⟩

/-- MemoryReadAfterWrite: a memory in canonical form, the written address and another. -/
theorem witness_memory : Memory.wf [(3, 2), (7, 1)] = true ∧ (7 : Nat) = 7 ∧ (3 : Nat) ≠ 7 := by decide

/-- HostMemoryAccess: the first address outside, the last byte of the active block, the byte before one, the first byte after
a command of no blocks, and an idle unit. -/
theorem witness_host_memory :
    Config.memSize ≤ Config.memSize ∧
    (63 < Config.memSize ∧ busy1.busy = true ∧ busy1.srcAddr.toNat ≤ 63 ∧
      63 < busy1.srcAddr.toNat + 64 * busy1.nblocks.toNat) ∧
    (63 < Config.memSize ∧ 63 < (ready 64 1).srcAddr.toNat) ∧
    (0 < Config.memSize ∧ State.reset.srcAddr.toNat + 64 * State.reset.nblocks.toNat ≤ 0) ∧ State.reset.busy = false := by
  have h := Config.memSize_ge
  exact ⟨Nat.le_refl _, ⟨by omega, rfl, by decide, by decide⟩, ⟨by omega, by decide⟩, ⟨by omega, by decide⟩, rfl⟩

/-- UnitNeverWritesMemory: the host writes byte 0. -/
theorem witness_memory_write :
    ∃ t, step (offer (.memWrite 0 1) State.reset) = .next t ∧ t.mem ≠ (offer (.memWrite 0 1) State.reset).mem := by
  have h := Config.memSize_ge
  refine ⟨{ State.reset with mem := Memory.write [] 0 1 }, ?_, by decide⟩
  have h0 : ¬ Config.memSize ≤ 0 := by omega
  simp only [step_offer, takeEvent, hostMemWrite, if_neg h0]
  rfl

/-- BlockStep (its three clauses at the ends of their ranges), BlockOutOfRange. -/
theorem witness_block_step :
    State.reset.busy = false ∧ faulted.fault = true ∧
    (tooFar.busy = true ∧ tooFar.fault = false ∧ Config.memSize < tooFar.curAddr + 64) ∧
    lastBlock.busy = true ∧ lastBlock.fault = false ∧ lastBlock.curAddr + 64 ≤ Config.memSize :=
  ⟨rfl, rfl, ⟨rfl, rfl, tooFar_out_of_range⟩, rfl, rfl, lastBlock_in_range⟩

/-- MessageVectorsHoldSchedule: the first step, the last that still has all four vectors, and the last of all. -/
theorem witness_message_vectors : 0 < 16 ∧ 0 ≤ 12 ∧ 12 < 16 ∧ 12 ≤ 12 ∧ 15 < 16 ∧ 3 < 4 := by decide

/-- The unit with SRC_ADDR = 0 and NBLOCKS = 1 and one CTRL write to come. -/
def toStart : State := { ready 0 1 with schedule := [.regWrite 0x000 32 3] }

/-- The end of that command: its one block compressed. -/
theorem run_toStart :
    ∃ u t, Host.Core.run core 1 toStart = .next u ∧ u.busy = true ∧ Host.Core.run core 2 toStart = .next t ∧
      t.busy = false ∧ t.fault = false := by
  have h := Config.memSize_ge
  let u : State := { initHash (ready 0 1) with remain := 1, busy := true }
  have h1 : step toStart = .next u := rfl
  have h2 : ∃ t, step u = .next t ∧ t.busy = false ∧ t.fault = false := by
    rw [step_of_nil rfl]
    rcases engineTurn_cases Config.memSize u with ⟨h, -⟩ | ⟨-, -, -, h⟩ | ⟨-, -, h, -⟩
    · exact absurd h (by decide)
    · exact ⟨_, rfl, by rw [h]; decide, by rw [h]; rfl⟩
    · exact absurd (show u.curAddr = 0 from rfl) (by omega)
  obtain ⟨t, ht, hb, hf⟩ := h2
  refine ⟨u, t, ?_, rfl, ?_, hb, hf⟩
  · rw [run_succ_of_next 0 h1]; rfl
  · rw [run_succ_of_next 1 h1, run_succ_of_next 0 ht]; rfl

/-- CommandEndState: one block at 0, with INIT, ends at k = 2. -/
theorem witness_command_end :
    (ready 0 1).busy = false ∧ (ready 0 1).fault = false ∧ (ready 0 1).nblocks ≠ 0 ∧ Memory.wf (ready 0 1).mem = true ∧
    (3#32).getLsbD 0 = true ∧ Event.reset ∉ ([] : List Event) ∧ 1 ≤ 2 ∧
    (∀ j, 1 ≤ j → j < 2 → ∃ u, Host.Core.run core j toStart = .next u ∧ u.busy = true) ∧
    ∃ t, Host.Core.run core 2 toStart = .next t ∧ t.busy = false ∧ t.fault = false := by
  obtain ⟨u, t, h1, hu, h2, hb, hf⟩ := run_toStart
  refine ⟨rfl, rfl, by decide, rfl, by decide, by simp, by omega, fun j hj hk => ?_, t, h2, hb, hf⟩
  obtain rfl : j = 1 := by omega
  exact ⟨u, h1, hu⟩

/-- CommandRunsToEnd: one block at 0, which ends at 64 ≤ MEM_SIZE. -/
theorem witness_command_runs :
    (ready 0 1).busy = false ∧ (ready 0 1).fault = false ∧ (ready 0 1).nblocks ≠ 0 ∧
    (ready 0 1).srcAddr.toNat + 64 * (ready 0 1).nblocks.toNat ≤ Config.memSize ∧ 0 < (ready 0 1).nblocks.toNat := by
  have h := Config.memSize_ge
  exact ⟨rfl, rfl, by decide, h, by decide⟩

/-- EngineAndPortIndependent, last clause. -/
theorem witness_engine_and_port : ∃ t, exec (.sha256h 0 1 4) busy1 = .next t := ⟨_, rfl⟩

/-- IdleUnitRests. -/
theorem witness_idle : State.reset.schedule = [] ∧ State.reset.busy = false := by decide

/-- StepKeepsInvariant: a state with a command under way and a fault that ends it. -/
theorem witness_step_keeps_invariant :
    Inv Config.memSize busy1 ∧ ∃ t, step (offer (.regWrite 0x014 32 0xFFFFFFFF) busy1) = .next t := by
  refine ⟨⟨⟨fun _ => rfl, fun _ => rfl, (nomatch ·), (nomatch ·)⟩, ⟨?_, ?_, ?_⟩, ⟨rfl, ?_⟩⟩, _, rfl⟩
  · intro _; decide
  · intro _; decide
  · intro _; decide
  · intro c hc; cases hc

/-- VectorFileWriters: the host writes the last lane of V31. -/
theorem witness_vector_writers :
    ∃ t, step (offer (.regWrite 0x2FC 32 1) State.reset) = .next t ∧ t.v ≠ State.reset.v :=
  ⟨_, rfl, by decide⟩

/-- HashStateWriters: INIT. -/
theorem witness_hash_writers :
    ∃ t, step (offer (.regWrite 0x000 32 2) State.reset) = .next t ∧ t.hash ≠ State.reset.hash :=
  ⟨_, rfl, by decide⟩

/-- PaddedMessage: the empty message and 56 bytes, a zero byte of the fill, and a whole number of blocks. -/
theorem witness_padded :
    ([] : List Byte).length < 2 ^ 61 ∧ ([] : List Byte).length % 64 = 0 ∧ (0 < 1 ∧ 1 < 0 + 1 + zeroFill 0) ∧
    (List.replicate 56 (0x61 : Byte)).length < 2 ^ 61 ∧ (List.replicate 64 (0x61 : Byte)).length % 64 = 0 := by
  decide

/-- ComputeHashTotal: the empty message, and one of 2^61 bytes. -/
theorem witness_compute_hash :
    ([] : List Byte).length < 2 ^ 61 ∧ 2 ^ 61 ≤ (List.replicate (2 ^ 61) (0 : Byte)).length :=
  ⟨by decide, Nat.le_of_eq List.length_replicate.symm⟩

/-- DriverComputesHash: the empty message at address 0, one block. -/
theorem witness_driver :
    State.reset.busy = false ∧ State.reset.fault = false ∧ Memory.wf State.reset.mem = true ∧
    0 + 64 * blockCount ([] : List Byte).length ≤ Config.memSize :=
  ⟨rfl, rfl, rfl, Config.memSize_ge⟩

/-- DriverComputesHash, last clause: the empty message as one part of one block at 0, polled once before its block step and
once after it. -/
theorem witness_driver_parts :
    State.reset.busy = false ∧ State.reset.fault = false ∧ Memory.wf State.reset.mem = true ∧
    ([] : List Byte).length < 2 ^ 61 ∧
    (([⟨0, 1, [0, 1]⟩] : List Part).map (·.blocks)).sum = blockCount ([] : List Byte).length ∧
    (∀ p ∈ ([⟨0, 1, [0, 1]⟩] : List Part),
      1 ≤ p.blocks ∧ p.addr + 64 * p.blocks ≤ Config.memSize ∧ p.blocks ≤ p.turns.sum) ∧
    ([⟨0, 1, [0, 1]⟩] : List Part).Pairwise
      (fun p q => p.addr + 64 * p.blocks ≤ q.addr ∨ q.addr + 64 * q.blocks ≤ p.addr) := by
  refine ⟨rfl, rfl, rfl, by decide, by decide, fun p hp => ?_, by decide⟩
  obtain rfl := List.mem_singleton.1 hp
  exact ⟨by decide, Config.memSize_ge, by decide⟩

/-- DriverComputesHash, last clause: what it asks of two parts side by side, for a message of two blocks. -/
theorem witness_driver_two_parts :
    (([⟨64, 1, [1]⟩, ⟨0, 1, [0, 0, 1]⟩] : List Part).map (·.blocks)).sum = blockCount 56 ∧
    ([⟨64, 1, [1]⟩, ⟨0, 1, [0, 0, 1]⟩] : List Part).Pairwise
      (fun p q => p.addr + 64 * p.blocks ≤ q.addr ∨ q.addr + 64 * q.blocks ≤ p.addr) := by decide

/-- The start of 95_test_vectors P3: H0 in V0, V1, the little-endian lanes of "abc" in V6..V9, K in V16..V31. -/
def portStart : State :=
  { State.reset with
    v := Vector.ofFn fun r : Fin 32 =>
      if r.val = 0 then state0Of h0 else if r.val = 1 then state1Of h0
      else if 6 ≤ r.val ∧ r.val < 10 then leVec abcBlock (Fin.ofNat 4 (r.val - 6))
      else if 16 ≤ r.val then kGroup (Fin.ofNat 16 (r.val - 16)) else ⟨0, 0, 0, 0⟩ }

/-- PortCompressesBlock, last clause: an idle unit and a busy one with FAULT = 0. -/
theorem witness_port_host : State.reset.fault = false ∧ busy1.fault = false ∧ busy1.busy = true := by decide

/-- PortCompressesBlock: that state. -/
theorem witness_port :
    portStart.fault = false ∧ portStart.readV 0 = state0Of h0 ∧ portStart.readV 1 = state1Of h0 ∧
    (∀ j : Fin 4, portStart.readV ⟨6 + j.val, by omega⟩ = leVec abcBlock j) ∧
    ∀ g : Fin 16, portStart.readV ⟨16 + g.val, by omega⟩ = kGroup g := by decide

end Sys2Proof.Tests
end

section
/-! PROOFS. Lanes and words (00_scope R7, R8): the slices of a value put together from four parts, the lanes of a vector as
slices of its 128 bits, and what the word operators do to a word's value, bits and bytes. -/

namespace Sys2Proof

/-! ### Four parts of one width -/

/-- A slice that starts above the low part is a slice of the high part. -/
theorem extractLsb'_add_append {v w : Nat} (hi : BitVec v) (lo : BitVec w) (start len : Nat) :
    (hi ++ lo).extractLsb' (w + start) len = hi.extractLsb' start len := by
  rw [BitVec.extractLsb'_append_eq_of_le (Nat.le_add_right w start), Nat.add_sub_cancel_left]

/-- Slice k of four joined parts, counted from the low end, is part k: the common form of a vector's lanes and a word's
bytes. Each low part is dropped in turn. -/
theorem extractLsb'_append_four {w : Nat} (p0 p1 p2 p3 : BitVec w) (k : Fin 4) :
    (p3 ++ p2 ++ p1 ++ p0).extractLsb' (w * k.val) w = ![p0, p1, p2, p3] k := by
  match k with
  | 0 => exact BitVec.extractLsb'_append_eq_right
  | 1 =>
    have start : w * (1 : Fin 4).val = w + 0 := Nat.mul_one w
    rw [start, extractLsb'_add_append]
    exact BitVec.extractLsb'_append_eq_right
  | 2 =>
    have start : w * (2 : Fin 4).val = w + (w + 0) := Nat.mul_two w
    rw [start, extractLsb'_add_append, extractLsb'_add_append]
    exact BitVec.extractLsb'_append_eq_right
  | 3 =>
    have start : w * (3 : Fin 4).val = w + (w + w) := by change w * 3 = _; omega
    rw [start, extractLsb'_add_append, extractLsb'_add_append]
    exact BitVec.extractLsb'_append_eq_left

/-! ### Lanes -/

theorem Vec.elem_eq_extractLsb'_toBits (v : Vec) (e : Fin 4) :
    v.elem e = v.toBits.extractLsb' (32 * e.val) 32 := by
  have literal : v.elem e = ![v.l0, v.l1, v.l2, v.l3] e := by
    match e with
    | 0 | 1 | 2 | 3 => rfl
  rw [literal]
  exact (extractLsb'_append_four v.l0 v.l1 v.l2 v.l3 e).symm

theorem Vec.elem_ofBits (x : BitVec 128) (e : Fin 4) : (Vec.ofBits x).elem e = x.extractLsb' (32 * e.val) 32 := by
  match e with
  | 0 | 1 | 2 | 3 => rfl

/-- What lane f holds after a write to lane e. -/
theorem Vec.elem_setElem (v : Vec) (e f : Fin 4) (x : Word) :
    (v.setElem e x).elem f = if f = e then x else v.elem f := by
  match e, f with
  | 0, 0 | 0, 1 | 0, 2 | 0, 3 | 1, 0 | 1, 1 | 1, 2 | 1, 3 => rfl
  | 2, 0 | 2, 1 | 2, 2 | 2, 3 | 3, 0 | 3, 1 | 3, 2 | 3, 3 => rfl

/-- A vector has the lanes of its 128 bits, and lanes determine a vector. -/
@[simp] theorem Vec.ofBits_toBits (v : Vec) : Vec.ofBits v.toBits = v :=
  Vec.eq_of_elem fun e => (Vec.elem_ofBits v.toBits e).trans (v.elem_eq_extractLsb'_toBits e).symm

/-- Adjacent slices join to one slice, so the four lanes join to the whole value. -/
@[simp] theorem Vec.toBits_ofBits (x : BitVec 128) : (Vec.ofBits x).toBits = x :=
  calc (Vec.ofBits x).toBits
      = x.extractLsb' 96 32 ++ x.extractLsb' 64 32 ++ x.extractLsb' 32 32 ++ x.extractLsb' 0 32 := rfl
    _ = x.extractLsb' 64 64 ++ x.extractLsb' 32 32 ++ x.extractLsb' 0 32 := by
      rw [BitVec.extractLsb'_append_extractLsb'_eq_extractLsb' (start₂ := 96) (start₁ := 64) (len₁ := 32) rfl]
    _ = x.extractLsb' 32 96 ++ x.extractLsb' 0 32 := by
      rw [BitVec.extractLsb'_append_extractLsb'_eq_extractLsb' (start₂ := 64) (start₁ := 32) (len₁ := 32) rfl]
    _ = x.extractLsb' 0 128 := BitVec.extractLsb'_append_extractLsb'_eq_extractLsb' rfl
    _ = x := BitVec.extractLsb'_eq_self

/-- Settles O6: the four parts lemma gives the lanes, and the two round trips rest on the lanes. -/
theorem vectorLanes : Obligations.VectorLanes :=
  ⟨Vec.elem_eq_extractLsb'_toBits, fun _ _ _ _ => rfl, Vec.elem_setElem, Vec.toBits_ofBits, Vec.ofBits_toBits⟩

/-! ### Word operators -/

/-- A sum of three terms reduced once at the end (00_scope R8). -/
theorem toNat_add_add (x y z : Word) : (x + y + z).toNat = (x.toNat + y.toNat + z.toNat) % 2 ^ 32 := by
  rw [BitVec.toNat_add, BitVec.toNat_add, Nat.mod_add_mod]

theorem toNat_shr (x : Word) (n : Nat) : (shr x n).toNat = x.toNat / 2 ^ n := by
  rw [shr, BitVec.toNat_ushiftRight, Nat.shiftRight_eq_div_pow]

/-- The two shifts of `ror` are Lean's rotation, for every amount below the width. -/
theorem ror_eq_rotateRight (x : Word) {n : Nat} (hn : n < 32) : ror x n = x.rotateRight n := by
  rw [BitVec.rotateRight_def, Nat.mod_eq_of_lt hn, ror, shr]

/-- Bit k of a rotated word is bit k + n, which wraps once past bit 31. -/
theorem getLsbD_ror (x : Word) {n k : Nat} (hn : n < 32) (hk : k < 32) :
    (ror x n).getLsbD k = x.getLsbD ((k + n) % 32) := by
  rw [ror_eq_rotateRight x hn, BitVec.getLsbD_rotateRight, Nat.mod_eq_of_lt hn]
  by_cases inside : k < 32 - n
  · have source : (k + n) % 32 = n + k := by omega
    simp [inside, source]
  · have source : (k + n) % 32 = k - (32 - n) := by omega
    simp [inside, source, hk]

/-- Byte k of a byte-reversed word is byte 3 - k. -/
theorem extractLsb'_bswap32 (x : Word) (k : Fin 4) :
    (bswap32 x).extractLsb' (8 * k.val) 8 = x.extractLsb' (24 - 8 * k.val) 8 := by
  have bytes := extractLsb'_append_four (x.extractLsb' 24 8) (x.extractLsb' 16 8) (x.extractLsb' 8 8)
    (x.extractLsb' 0 8) k
  refine bytes.trans ?_
  match k with
  | 0 | 1 | 2 | 3 => rfl

/-- Settles O7: each operator by its own lemma; AND, OR, XOR and NOT are the library's bit lemmas. -/
theorem wordOperators : Obligations.WordOperators := by
  intro x y z
  refine ⟨BitVec.toNat_add x y, toNat_add_add x y z, fun k hk => ?_, fun n _ => toNat_shr x n,
    fun n _ hn k hk => getLsbD_ror x hn hk, extractLsb'_bswap32 x⟩
  exact ⟨BitVec.getLsbD_and, BitVec.getLsbD_or, BitVec.getLsbD_xor, by simp [hk]⟩

end Sys2Proof
end

section
/-! PROOFS. The map of the register block (10_state R43, R46): the offset of each register, which accesses reach one, and the
host addresses that do. -/

namespace Sys2Proof.Machine

/-! ### Offsets -/

/-- The offset from UNIT_BASE at which the map of 10_state R43 places a register. -/
def BlockReg.offset : BlockReg → Nat
  | .ctrl => 0x000
  | .status => 0x004
  | .srcAddr => 0x008
  | .nblocks => 0x00C
  | .faultInfo => 0x010
  | .instr => 0x014
  | .state i => 0x020 + 4 * i.val
  | .vreg r e => 0x100 + 16 * r.val + 4 * e.val

/-- The register at a register's own offset is that register. -/
@[simp] theorem regAt_offset (r : BlockReg) : regAt r.offset 32 = .ok r := by
  cases r with
  | state i =>
    have index : Fin.ofNat 8 ((0x020 + 4 * i.val - 0x020) / 4) = i := by
      ext; simp only [Fin.val_ofNat]; omega
    change regAt (0x020 + 4 * i.val) 32 = _
    simp (disch := omega) only [regAt, if_neg, if_pos, index]
  | vreg r e =>
    have index : Fin.ofNat 32 ((0x100 + 16 * r.val + 4 * e.val - 0x100) / 16) = r := by
      ext; simp only [Fin.val_ofNat]; omega
    have lane : Fin.ofNat 4 ((0x100 + 16 * r.val + 4 * e.val - 0x100) / 4) = e := by
      ext; simp only [Fin.val_ofNat]; omega
    change regAt (0x100 + 16 * r.val + 4 * e.val) 32 = _
    simp (disch := omega) only [regAt, if_neg, if_pos, index, lane]
  | _ => rfl

theorem offset_state_range (i : Fin 8) : 0x020 ≤ (BlockReg.state i).offset ∧ (BlockReg.state i).offset < 0x040 := by
  simp only [BlockReg.offset]
  omega

theorem offset_vreg_range (r : VReg) (e : Fin 4) :
    0x100 ≤ (BlockReg.vreg r e).offset ∧ (BlockReg.vreg r e).offset < 0x300 := by
  simp only [BlockReg.offset]
  omega

/-- The accesses that 10_state R46 refuses. -/
def AccessRefused (off width : Nat) : Prop :=
  width ≠ 32 ∨ off % 4 ≠ 0 ∨ off = 0x018 ∨ off = 0x01C ∨ (0x040 ≤ off ∧ off ≤ 0x0FC) ∨ 0x300 ≤ off

/-- An access that is not refused is at the offset of a register: one of the six below 0x018, a STATE word or a lane of the
VREG window. -/
theorem eq_offset_of_not_refused {off width : Nat} (h : ¬ AccessRefused off width) :
    width = 32 ∧ ∃ r : BlockReg, off = r.offset := by
  unfold AccessRefused at h
  refine ⟨by omega, ?_⟩
  have range : off < 0x018 ∨ (0x020 ≤ off ∧ off < 0x040) ∨ (0x100 ≤ off ∧ off < 0x300) := by omega
  rcases range with low | ⟨lo, hi⟩ | ⟨lo, hi⟩
  · have six : off = 0x000 ∨ off = 0x004 ∨ off = 0x008 ∨ off = 0x00C ∨ off = 0x010 ∨ off = 0x014 := by omega
    rcases six with e | e | e | e | e | e
    · exact ⟨.ctrl, e⟩
    · exact ⟨.status, e⟩
    · exact ⟨.srcAddr, e⟩
    · exact ⟨.nblocks, e⟩
    · exact ⟨.faultInfo, e⟩
    · exact ⟨.instr, e⟩
  · exact ⟨.state ⟨(off - 0x020) / 4, by omega⟩, by simp only [BlockReg.offset]; omega⟩
  · exact ⟨.vreg ⟨(off - 0x100) / 16, by omega⟩ ⟨(off - 0x100) / 4 % 4, by omega⟩, by simp only [BlockReg.offset]; omega⟩

theorem offset_not_refused (r : BlockReg) : ¬ AccessRefused r.offset 32 := by
  unfold AccessRefused
  cases r <;> simp only [BlockReg.offset] <;> omega

/-- A refused access reaches no register: the checks of `regAt` before the map reject it, or it falls through the map. -/
theorem regAt_of_refused {off width : Nat} (h : AccessRefused off width) : ∃ e, regAt off width = .error e := by
  unfold AccessRefused at h
  by_cases wrongWidth : width ≠ 32
  · exact ⟨.accessWidth, if_pos wrongWidth⟩
  by_cases unaligned : off % 4 ≠ 0
  · exact ⟨.misaligned, by simp (disch := omega) only [regAt, if_neg, if_pos]⟩
  by_cases outside : 0x300 ≤ off
  · exact ⟨.outsideWindow, by simp (disch := omega) only [regAt, if_neg, if_pos]⟩
  · exact ⟨.reservedOffset, by simp (disch := omega) only [regAt, if_neg]⟩

/-- An access reaches register r exactly when it is 32 bits wide and at the offset of r. -/
theorem regAt_eq_ok_iff {off width : Nat} {r : BlockReg} : regAt off width = .ok r ↔ width = 32 ∧ off = r.offset := by
  constructor
  · intro h
    by_cases refused : AccessRefused off width
    · obtain ⟨e, he⟩ := regAt_of_refused refused
      rw [he] at h
      cases h
    · obtain ⟨rfl, q, rfl⟩ := eq_offset_of_not_refused refused
      rw [regAt_offset] at h
      cases h
      exact ⟨rfl, rfl⟩
  · rintro ⟨rfl, rfl⟩
    exact regAt_offset r

/-! ### Accesses -/

@[simp] theorem hostWrite_offset (r : BlockReg) (x : Word) (s : State) : hostWrite r.offset 32 x s = writeReg r x s := by
  simp [hostWrite]

@[simp] theorem hostRead_offset (r : BlockReg) (s : State) : hostRead r.offset 32 s = .next (readReg r s) := by
  simp [hostRead]

/-- A step on a host write at a register's offset is the write of that register. -/
theorem step_regWrite (r : BlockReg) (x : Word) (s : State) :
    step (offer (.regWrite r.offset 32 x) s) = writeReg r x s := hostWrite_offset r x s

/-- A step on a host read at a register's offset is the read of that register. -/
theorem step_regRead (r : BlockReg) (s : State) :
    step (offer (.regRead r.offset 32) s) = .next (readReg r s) := hostRead_offset r s

theorem hostWrite_of_refused {off width : Nat} (h : AccessRefused off width) (x : Word) (s : State) :
    ∃ e, hostWrite off width x s = .refused e := by
  obtain ⟨e, he⟩ := regAt_of_refused h
  exact ⟨e, by simp [hostWrite, he]⟩

theorem hostRead_of_refused {off width : Nat} (h : AccessRefused off width) (s : State) :
    ∃ e, hostRead off width s = .refused e := by
  obtain ⟨e, he⟩ := regAt_of_refused h
  exact ⟨e, by simp [hostRead, he]⟩

/-- No register rejects a write: an INSTR write executes an instruction, which completes, or takes a fault. -/
theorem writeReg_completes (r : BlockReg) (x : Word) (s : State) : ∃ t, writeReg r x s = .next t := by
  cases r with
  | instr =>
    simp only [writeReg, writeInstr]
    split
    · exact ⟨s, rfl⟩
    · split
      · next i _ =>
        obtain ⟨y, hy⟩ := exec_writes_rd i s
        exact ⟨_, hy⟩
      · exact ⟨_, rfl⟩
  | _ => exact ⟨_, rfl⟩

/-! ### Addresses -/

theorem inWindow_add {base off : Nat} (h : off < 0x300) : inWindow base (base + off) = true := by
  simp [inWindow, h]

theorem inWindow_of_outside {base addr : Nat} (h : addr < base ∨ base + 0x300 ≤ addr) : inWindow base addr = false := by
  simp only [inWindow, Bool.and_eq_false_iff, decide_eq_false_iff_not]
  omega

theorem addrOffset_add {base off : Nat} (h : off < 0x300) : addrOffset base (base + off) = .ok off := by
  simp [addrOffset, inWindow_add h]

theorem addrOffset_of_outside {base addr : Nat} (h : addr < base ∨ base + 0x300 ≤ addr) :
    addrOffset base addr = .error .outsideWindow := by
  simp [addrOffset, inWindow_of_outside h]

theorem hostWriteAt_add {base off : Nat} (h : off < 0x300) (width : Nat) (x : Word) :
    hostWriteAt base (base + off) width x = hostWrite off width x := by
  funext s
  simp [hostWriteAt, addrOffset_add h]

theorem hostReadAt_add {base off : Nat} (h : off < 0x300) (width : Nat) :
    hostReadAt base (base + off) width = hostRead off width := by
  funext s
  simp [hostReadAt, addrOffset_add h]

theorem hostWriteAt_of_outside {base addr : Nat} (h : addr < base ∨ base + 0x300 ≤ addr) (width : Nat) (x : Word)
    (s : State) : hostWriteAt base addr width x s = .refused .outsideWindow := by
  simp [hostWriteAt, addrOffset_of_outside h]

theorem hostReadAt_of_outside {base addr : Nat} (h : addr < base ∨ base + 0x300 ≤ addr) (width : Nat) (s : State) :
    hostReadAt base addr width s = .refused .outsideWindow := by
  simp [hostReadAt, addrOffset_of_outside h]

/-- An address in the window of unit u and of no other is decoded to u: the search finds a unit, and no other qualifies. -/
theorem unitAt_eq_some_of_unique {n : Nat} {base : Nat → Nat} {addr : Nat} {u : Fin n}
    (hu : inWindow (base u.val) addr = true) (unique : ∀ w : Fin n, w ≠ u → inWindow (base w.val) addr = false) :
    unitAt base addr = some u := by
  cases found : unitAt base addr with
  | none => exact absurd hu (List.find?_eq_none.1 found u (List.mem_finRange u))
  | some w =>
    have hw := inWindow_of_unitAt found
    by_cases same : w = u
    · rw [same]
    · rw [unique w same] at hw
      cases hw

theorem platformWith_busWrite {n m : Nat} {base : Nat → Nat} {addr : Nat} {u : Fin n} (h : unitAt base addr = some u)
    (width : Nat) (x : Word) (p : Vector State n) :
    platformWith m base (.busWrite addr width x) p = onUnit u (hostWriteAt (base u.val) addr width x) p := by
  simp [platformWith, h]

theorem platformWith_busRead {n m : Nat} {base : Nat → Nat} {addr : Nat} {u : Fin n} (h : unitAt base addr = some u)
    (width : Nat) (p : Vector State n) :
    platformWith m base (.busRead addr width) p = onUnit u (hostReadAt (base u.val) addr width) p := by
  simp [platformWith, h]

/-- Settles O29: the map is `regAt_offset`, its converse `regAt_eq_ok_iff`; addresses are decoded to offsets, and on a
platform first to the one unit whose window they lie in. -/
theorem registerMap : Obligations.RegisterMap := by
  refine ⟨regAt_offset .ctrl, regAt_offset .status, regAt_offset .srcAddr, regAt_offset .nblocks, regAt_offset .faultInfo,
    regAt_offset .instr, fun i => regAt_offset (.state i), fun r e => regAt_offset (.vreg r e), ?ranges, ?inside, ?outside,
    ?platform⟩
  case ranges =>
    intro off width r h
    obtain ⟨rfl, rfl⟩ := regAt_eq_ok_iff.1 h
    have accepted := offset_not_refused r
    unfold AccessRefused at accepted
    omega
  case inside =>
    intro base off width x s h
    exact ⟨congrFun (hostWriteAt_add h width x) s, congrFun (hostReadAt_add h width) s⟩
  case outside =>
    intro base addr width x s h
    exact ⟨hostWriteAt_of_outside h width x s, hostReadAt_of_outside h width s⟩
  case platform =>
    intro n base p u off width x h alone
    have decoded := unitAt_eq_some_of_unique (inWindow_add h) alone
    rw [platformWith_busWrite decoded, platformWith_busRead decoded, hostWriteAt_add h, hostReadAt_add h]
    exact ⟨rfl, rfl⟩

/-! ### Refused and completed accesses -/

/-- CTRL looks at bits 1 and 0 of the value alone (10_state R39, R46). -/
theorem writeCtrl_and_three (x : Word) (s : State) : writeCtrl (x &&& 3#32) s = writeCtrl x s := by
  have init : (x &&& 3#32).getLsbD 1 = x.getLsbD 1 := by simp
  have startBit : (x &&& 3#32).getLsbD 0 = x.getLsbD 0 := by simp
  simp only [writeCtrl, init, startBit]

/-- The mask of the reserved bits, cut where the fields of STATUS join, meets only zero fields. -/
theorem statusWord_and_reserved (s : State) : s.statusWord &&& 0xFFFFFF0C#32 = 0 := by
  have mask : 0xFFFFFF0C#32 = 0xFFFFFF#24 ++ 0#4 ++ 3#2 ++ 0#1 ++ 0#1 := rfl
  rw [State.statusWord, mask, BitVec.and_append, BitVec.and_append, BitVec.and_append, BitVec.and_append]
  simp

/-- Settles O30: refused accesses reach no register, all others reach one, and no register rejects an access. -/
theorem refusedAccesses : Obligations.RefusedAccesses := by
  intro off width x s
  refine ⟨fun refused => ⟨hostWrite_of_refused refused x s, hostRead_of_refused refused s⟩, fun accepted => ?_, ?_,
    statusWord_and_reserved s⟩
  · obtain ⟨rfl, r, rfl⟩ := eq_offset_of_not_refused accepted
    rw [step_regWrite, step_regRead]
    exact ⟨writeReg_completes r x s, _, rfl⟩
  · have ctrl : ∀ y, step (offer (.regWrite 0x000 32 y) s) = .next (writeCtrl y s) := fun y => step_regWrite .ctrl y s
    rw [ctrl, ctrl, writeCtrl_and_three]

end Sys2Proof.Machine
end

section
/-! PROOFS. The registers of the block one by one (10_state R36..R45): what a read returns and what a write does, each as the
register's arm of `readReg` or `writeReg` at its own offset. -/

namespace Sys2Proof.Machine

/-! ### STATUS -/

@[simp] theorem getLsbD_statusWord_zero (s : State) : s.statusWord.getLsbD 0 = s.busy := by
  rw [State.statusWord, BitVec.getLsbD_append]
  simp

@[simp] theorem getLsbD_statusWord_one (s : State) : s.statusWord.getLsbD 1 = s.fault := by
  rw [State.statusWord, BitVec.getLsbD_append, BitVec.getLsbD_append]
  simp

theorem Cause.code_toNat_le (c : Cause) : c.code.toNat ≤ 2 := by
  cases c <;> decide

/-- Settles O31: each field is a slice of the joined STATUS word, found by dropping the fields below it. -/
theorem statusRegister : Obligations.StatusRegister := by
  intro s
  refine ⟨getLsbD_statusWord_zero s, getLsbD_statusWord_one s, ?_, ?_, ?_, s.cause.code_toNat_le,
    fun x => step_regWrite .status x s, step_regRead .status s⟩
  · rw [State.statusWord, BitVec.extractLsb'_append_eq_of_le (by decide), BitVec.extractLsb'_append_eq_of_le (by decide)]
    exact BitVec.extractLsb'_append_eq_right
  · rw [State.statusWord, BitVec.extractLsb'_append_eq_of_le (by decide), BitVec.extractLsb'_append_eq_of_le (by decide),
      BitVec.extractLsb'_append_eq_of_le (by decide)]
    exact BitVec.extractLsb'_append_eq_right
  · rw [State.statusWord, BitVec.extractLsb'_append_eq_of_le (by decide), BitVec.extractLsb'_append_eq_of_le (by decide),
      BitVec.extractLsb'_append_eq_of_le (by decide)]
    exact BitVec.extractLsb'_append_eq_left

/-! ### INSTR -/

theorem writeInstr_of_fault {s : State} (w : Word) (h : s.fault = true) : writeInstr w s = .next s := by
  simp [writeInstr, h]

theorem writeInstr_of_decode_ok {s : State} {w : Word} {i : Instr} (h : s.fault = false) (hi : decode w = .ok i) :
    writeInstr w s = exec i s := by
  simp [writeInstr, h, hi]

theorem writeInstr_of_decode_error {s : State} {w u : Word} (h : s.fault = false) (hu : decode w = .error (.undefined u)) :
    writeInstr w s = .next (raiseFault .undefinedInstruction u s) := by
  simp [writeInstr, h, hu]

/-- The decoder rejects a word by that word itself (30_encoding R103). -/
theorem eq_undefined_of_decode_error {w : Word} {e : DecodeError} (h : decode w = .error e) : e = .undefined w := by
  unfold decode at h
  split at h
  · cases h
  · cases h
    rfl

/-- Settles O24: the three cases of `writeInstr`; an instruction writes a vector register alone. -/
theorem instrRegister : Obligations.InstrRegister := by
  intro s w
  have port : step (offer (.regWrite 0x014 32 w) s) = writeInstr w s := step_regWrite .instr w s
  rw [port]
  refine ⟨step_regRead .instr s, writeInstr_of_fault w, fun hf i hi => ?_, fun hf e he => ?_⟩
  · obtain ⟨x, hx⟩ := exec_writes_rd i s
    have run := writeInstr_of_decode_ok hf hi
    exact ⟨run, _, run.trans hx, rfl, rfl⟩
  · obtain rfl := eq_undefined_of_decode_error he
    exact writeInstr_of_decode_error hf he

/-! ### CTRL -/

/-- START sets BUSY exactly when there are blocks, since BUSY was 0. -/
theorem start_of_not_busy {s : State} (h : s.busy = false) :
    start s = { s with curAddr := s.srcAddr.toNat, remain := s.nblocks, busy := decide (s.nblocks ≠ 0) } := by
  simp only [start, h]
  by_cases empty : s.nblocks = 0 <;> simp [empty]

/-- Settles O32: ignored by the lemmas on BUSY and FAULT; else by `writeCtrl_of_idle`, bit by bit. -/
theorem ctrlCommands : Obligations.CtrlCommands := by
  intro s x
  have ctrl : step (offer (.regWrite 0x000 32 x) s) = .next (writeCtrl x s) := step_regWrite .ctrl x s
  rw [ctrl]
  refine ⟨step_regRead .ctrl s, ?_, fun hb hf => ?_⟩
  · rintro (hb | hf)
    · rw [writeCtrl_of_busy x hb]
    · rw [writeCtrl_of_fault x hf]
  · rw [writeCtrl_of_idle x hb hf]
    cases x.getLsbD 1 <;> cases x.getLsbD 0
    · rfl
    · exact congrArg _ (start_of_not_busy hb)
    · rfl
    · exact congrArg _ (start_of_not_busy (s := initHash s) hb)

/-! ### SRC_ADDR and NBLOCKS -/

/-- s with SRC_ADDR and NBLOCKS at other values. -/
def State.withCommand (s : State) (a n : Word) : State := { s with srcAddr := a, nblocks := n }

theorem raiseFault_withCommand (c : Cause) (u : Word) (s : State) (a n : Word) :
    raiseFault c u (s.withCommand a n) = (raiseFault c u s).withCommand a n := by
  cases hb : s.busy <;> simp [raiseFault, State.withCommand, hb]

/-- The engine's turn does not depend on SRC_ADDR or NBLOCKS, which START has latched, and keeps both: whether it is
enabled, whether its block is in range, and what it then does are read from other fields. -/
theorem engineTurn_withCommand (m : Nat) (s : State) (a n : Word) :
    engineTurn m (s.withCommand a n) = (engineTurn m s).withCommand a n := by
  have enabled : engineEnabled (s.withCommand a n) = engineEnabled s := rfl
  have range : blockInRange m (s.withCommand a n) = blockInRange m s := rfl
  simp only [engineTurn, blockStep, enabled, range, raiseFault_withCommand]
  cases engineEnabled s
  · rfl
  · cases blockInRange m s <;> rfl

@[simp] theorem engineTurn_srcAddr (m : Nat) (s : State) : (engineTurn m s).srcAddr = s.srcAddr := by
  rcases engineTurn_cases m s with ⟨-, h⟩ | ⟨-, -, -, h⟩ | ⟨-, -, -, h⟩ <;> simp [h]

@[simp] theorem engineTurn_nblocks (m : Nat) (s : State) : (engineTurn m s).nblocks = s.nblocks := by
  rcases engineTurn_cases m s with ⟨-, h⟩ | ⟨-, -, -, h⟩ | ⟨-, -, -, h⟩ <;> simp [h]

/-- Settles O33: writes by `unlessBusy`, the latch by `start`, and `engineTurn_withCommand` with one of the two registers left
at its own value. -/
theorem srcAddrAndNblocks : Obligations.SrcAddrAndNblocks := by
  intro s x
  have writeSrc : step (offer (.regWrite 0x008 32 x) s) = .next (unlessBusy { s with srcAddr := x } s) :=
    step_regWrite .srcAddr x s
  have writeNblocks : step (offer (.regWrite 0x00C 32 x) s) = .next (unlessBusy { s with nblocks := x } s) :=
    step_regWrite .nblocks x s
  rw [writeSrc, writeNblocks]
  refine ⟨fun hb => ?_, fun hb => ?_, step_regRead .srcAddr s, step_regRead .nblocks s, fun hb hf => ?_, fun m => ⟨?_, ?_⟩⟩
  · rw [unlessBusy_of_busy _ hb, unlessBusy_of_busy _ hb]
    exact ⟨rfl, rfl⟩
  · rw [unlessBusy_of_not_busy _ hb, unlessBusy_of_not_busy _ hb]
    exact ⟨⟨_, rfl, rfl, step_regRead .srcAddr _⟩, _, rfl, rfl, step_regRead .nblocks _⟩
  · have latch : writeCtrl 1 s = start s := writeCtrl_of_idle 1 hb hf
    refine ⟨start s, ?_, rfl, rfl⟩
    rw [← latch]
    exact step_regWrite .ctrl 1 s
  · have kept : (engineTurn m s).withCommand x s.nblocks = { engineTurn m s with srcAddr := x } := by
      rw [← engineTurn_nblocks m s]; rfl
    exact (engineTurn_withCommand m s x s.nblocks).trans kept
  · have kept : (engineTurn m s).withCommand s.srcAddr x = { engineTurn m s with nblocks := x } := by
      rw [← engineTurn_srcAddr m s]; rfl
    exact (engineTurn_withCommand m s s.srcAddr x).trans kept

/-! ### STATE0..7 -/

/-- What a hash word holds after a write to any. -/
theorem readHash_writeHash (s : State) (i j : Fin 8) (x : Word) :
    (s.writeHash i x).readHash j = if j = i then x else s.readHash j := by
  by_cases same : j = i
  · subst same
    simp
  · have apart : i.val ≠ j.val := fun h => same (Fin.ext h.symm)
    simp [State.readHash, same, apart]

/-- Settles O34: both accesses look at BUSY and then draw or ignore, or read or write the one word. -/
theorem stateRegisters : Obligations.StateRegisters := by
  intro s i j x
  have write : step (offer (.regWrite (0x020 + 4 * i.val) 32 x) s) = .next (unlessBusy (s.writeHash i x) s) :=
    step_regWrite (.state i) x s
  have read : step (offer (.regRead (0x020 + 4 * i.val) 32) s) = .next (readReg (.state i) s) :=
    step_regRead (.state i) s
  rw [write, read]
  refine ⟨fun hb => ⟨by rw [unlessBusy_of_busy _ hb], ?_⟩, fun hb => ⟨by simp [readReg, hb], s.writeHash i x, ?_, rfl,
    readHash_writeHash s i j x⟩⟩
  · obtain ⟨y, n, h⟩ := readReg_cases (.state i) s
    exact ⟨y, n, by rw [h]⟩
  · rw [unlessBusy_of_not_busy _ hb]

/-! ### The VREG window -/

/-- Settles O35: the window's write is `writeV` of the register with one lane set, in every state. -/
theorem vregWindow : Obligations.VregWindow := by
  intro s r e x
  refine ⟨step_regRead (.vreg r e) s, s.writeV r ((s.readV r).setElem e x), step_regWrite (.vreg r e) x s, rfl, ?_,
    fun f other => ?_, fun q other => readV_writeV_ne s _ other⟩
  · rw [readV_writeV_same, Vec.elem_setElem, if_pos rfl]
  · rw [readV_writeV_same, Vec.elem_setElem, if_neg other]

end Sys2Proof.Machine
end

section
/-! PROOFS. What the write of a register and an event can do to the unit, said once (10_state R39..R45, 20_memory R80), and
from it what an instruction leaves unchanged and which events write the vector registers and the hash state. -/

namespace Sys2Proof.Machine

/-! ### Effects -/

/-- The states that a write of x to a register can give, by register, with what each needs. -/
inductive WriteEffect (x : Word) (s : State) : BlockReg → State → Prop where
  | ignored (r : BlockReg) : WriteEffect x s r s
  | init (bit : x.getLsbD 1 = true) (hb : s.busy = false) (hf : s.fault = false) : WriteEffect x s .ctrl (initHash s)
  | start (hb : s.busy = false) (hf : s.fault = false) : WriteEffect x s .ctrl (start s)
  | initStart (bit : x.getLsbD 1 = true) (hb : s.busy = false) (hf : s.fault = false) :
      WriteEffect x s .ctrl (Machine.start (initHash s))
  | srcAddr (hb : s.busy = false) : WriteEffect x s .srcAddr (s.withCommand x s.nblocks)
  | nblocks (hb : s.busy = false) : WriteEffect x s .nblocks (s.withCommand s.srcAddr x)
  | state (i : Fin 8) (hb : s.busy = false) : WriteEffect x s (.state i) (s.writeHash i x)
  | executed (rd : VReg) (y : Vec) : WriteEffect x s .instr (s.writeV rd y)
  | undefined (u : Word) (hf : s.fault = false) : WriteEffect x s .instr (raiseFault .undefinedInstruction u s)
  | vreg (r : VReg) (e : Fin 4) (y : Vec) : WriteEffect x s (.vreg r e) (s.writeV r y)

theorem writeCtrl_effect (x : Word) (s : State) : WriteEffect x s .ctrl (writeCtrl x s) := by
  cases hb : s.busy
  · cases hf : s.fault
    · rw [writeCtrl_of_idle x hb hf]
      cases bit : x.getLsbD 1 <;> cases x.getLsbD 0
      · exact .ignored .ctrl
      · exact .start hb hf
      · exact .init bit hb hf
      · exact .initStart bit hb hf
    · rw [writeCtrl_of_fault x hf]
      exact .ignored .ctrl
  · rw [writeCtrl_of_busy x hb]
    exact .ignored .ctrl

theorem writeInstr_effect {x : Word} {s t : State} (h : writeInstr x s = .next t) : WriteEffect x s .instr t := by
  rcases writeInstr_cases h with ⟨-, rfl⟩ | ⟨-, i, -, run⟩ | ⟨hf, u, -, rfl⟩
  · exact .ignored .instr
  · obtain ⟨y, hy⟩ := exec_writes_rd i s
    obtain rfl : s.writeV i.rd y = t := Host.Outcome.next.inj (hy.symm.trans run)
    exact .executed i.rd y
  · exact .undefined u hf

/-- A write that is ignored while BUSY = 1 has the effect it has while BUSY = 0, if any. -/
theorem unlessBusy_effect {x : Word} {s f : State} {r : BlockReg} (idle : s.busy = false → WriteEffect x s r f) :
    WriteEffect x s r (unlessBusy f s) := by
  cases hb : s.busy
  · rw [unlessBusy_of_not_busy f hb]
    exact idle hb
  · rw [unlessBusy_of_busy f hb]
    exact .ignored r

/-- Every write of a register that answers has one of the effects of that register. -/
theorem writeReg_effect {r : BlockReg} {x : Word} {s t : State} (h : writeReg r x s = .next t) : WriteEffect x s r t := by
  cases r with
  | ctrl => exact Host.Outcome.next.inj h ▸ writeCtrl_effect x s
  | status => exact Host.Outcome.next.inj h ▸ .ignored .status
  | srcAddr => exact Host.Outcome.next.inj h ▸ unlessBusy_effect .srcAddr
  | nblocks => exact Host.Outcome.next.inj h ▸ unlessBusy_effect .nblocks
  | faultInfo => exact Host.Outcome.next.inj h ▸ .ignored .faultInfo
  | instr => exact writeInstr_effect h
  | state i => exact Host.Outcome.next.inj h ▸ unlessBusy_effect (.state i)
  | vreg r e => exact Host.Outcome.next.inj h ▸ .vreg r e _

/-- The states that an event can give in a memory of m bytes. A read of either kind leaves what the host sees. -/
inductive EventEffect (m : Nat) (s : State) : Event → State → Prop where
  | regWrite {r : BlockReg} {x : Word} {t : State} (effect : WriteEffect x s r t) :
      EventEffect m s (.regWrite r.offset 32 x) t
  | regRead (off width : Nat) (x : Word) (n : Nat) :
      EventEffect m s (.regRead off width) { s with lastRead := x, draws := n }
  | memRead (a : Nat) (b : Byte) : EventEffect m s (.memRead a) { s with lastByte := b }
  | memWrite (a : Nat) (b : Byte) (inside : a < m) :
      EventEffect m s (.memWrite a b) { s with mem := Memory.write s.mem a b }
  | engine : EventEffect m s .engine (engineTurn m s)
  | reset : EventEffect m s .reset (takeReset s)

/-- Every event that answers has one of these effects. -/
theorem takeEvent_effect {m : Nat} {e : Event} {s t : State} (h : takeEvent m e s = .next t) : EventEffect m s e t := by
  cases e with
  | regWrite off width x =>
    obtain ⟨r, reached, written⟩ := hostWrite_cases h
    obtain ⟨rfl, rfl⟩ := regAt_eq_ok_iff.1 reached
    exact .regWrite (writeReg_effect written)
  | regRead off width =>
    obtain ⟨r, -, rfl⟩ := hostRead_cases h
    obtain ⟨x, n, seen⟩ := readReg_cases r s
    exact seen ▸ .regRead off width x n
  | memWrite a b =>
    obtain ⟨inside, -, rfl⟩ := hostMemWrite_cases h
    exact .memWrite a b inside
  | memRead a =>
    obtain ⟨-, rfl⟩ := hostMemRead_cases h
    exact .memRead a _
  | engine => exact Host.Outcome.next.inj h ▸ .engine
  | reset => exact Host.Outcome.next.inj h ▸ .reset

/-! ### Instructions -/

/-- Settles O20: an instruction answers its state with Rd written, and that write changes no other field. -/
theorem instructionFrame : Obligations.InstructionFrame := by
  intro i s t h
  obtain ⟨x, hx⟩ := exec_writes_rd i s
  obtain rfl : s.writeV i.rd x = t := Host.Outcome.next.inj (hx.symm.trans h)
  exact ⟨fun r other => readV_writeV_ne s x other, fun _ => rfl, rfl, fun _ => rfl, rfl, rfl, rfl, rfl, rfl, rfl, rfl, rfl,
    rfl, rfl, rfl, rfl, rfl, rfl⟩

/-! ### The vector registers -/

@[simp] theorem engineTurn_v (m : Nat) (s : State) : (engineTurn m s).v = s.v := by
  rcases engineTurn_cases m s with ⟨-, h⟩ | ⟨-, -, -, h⟩ | ⟨-, -, -, h⟩ <;> simp [h]

/-- A write of a register changes the vector registers only through INSTR or the VREG window. -/
theorem WriteEffect.writes_v {x : Word} {s t : State} {r : BlockReg} (h : WriteEffect x s r t) (changed : t.v ≠ s.v) :
    r = .instr ∨ ∃ q e, r = .vreg q e := by
  cases h with
  | executed => exact .inl rfl
  | undefined => exact .inl rfl
  | vreg q e => exact .inr ⟨q, e, rfl⟩
  | _ => exact absurd rfl changed

/-- Settles O54: with nothing scheduled the engine has its turn, which keeps V; so does every event but the three. -/
theorem vectorFileWriters : Obligations.VectorFileWriters := by
  intro s t h changed
  rcases stepWith_cases h with ⟨-, rfl⟩ | ⟨e, rest, scheduled, taken⟩
  · exact absurd (engineTurn_v _ s) changed
  · refine ⟨e, rest, scheduled, ?_⟩
    cases takeEvent_effect taken with
    | @regWrite r x _ effect =>
      rcases effect.writes_v changed with rfl | ⟨q, f, rfl⟩
      · exact .inr (.inl ⟨x, rfl⟩)
      · exact .inr (.inr ⟨_, x, rfl, offset_vreg_range q f⟩)
    | engine => exact absurd (engineTurn_v _ _) changed
    | reset => exact .inl rfl
    | _ => exact absurd rfl changed

/-! ### The hash state -/

/-- An engine's turn that changes the hash state is under a command. -/
theorem busy_of_engineTurn_hash {m : Nat} {s : State} (changed : (engineTurn m s).hash ≠ s.hash) : s.busy = true := by
  rcases engineTurn_cases m s with ⟨-, h⟩ | ⟨hb, -⟩ | ⟨hb, -⟩
  · exact absurd (congrArg State.hash h) changed
  · exact hb
  · exact hb

/-- A write of a register changes the hash state only by INIT of an idle unit, by a STATE write with BUSY = 0, or by a fault
at the port under a command. -/
theorem WriteEffect.writes_hash {x : Word} {s t : State} {r : BlockReg} (h : WriteEffect x s r t)
    (changed : t.hash ≠ s.hash) :
    (r = .ctrl ∧ x.getLsbD 1 = true ∧ s.busy = false ∧ s.fault = false) ∨
    (∃ i, r = .state i ∧ s.busy = false) ∨
    (r = .instr ∧ s.busy = true ∧ s.fault = false ∧ t.fault = true) := by
  cases h with
  | init bit hb hf => exact .inl ⟨rfl, bit, hb, hf⟩
  | initStart bit hb hf => exact .inl ⟨rfl, bit, hb, hf⟩
  | state i hb => exact .inr (.inl ⟨i, rfl, hb⟩)
  | undefined u hf =>
    have busy : s.busy = true := by
      by_contra idle
      simp [idle] at changed
    exact .inr (.inr ⟨rfl, busy, hf, raiseFault_fault _ _ _⟩)
  | _ => exact absurd rfl changed

/-- Settles O55: the engine's turn writes STATE under a command alone, and of the events only a reset and the register writes
of `WriteEffect.writes_hash` do. -/
theorem hashStateWriters : Obligations.HashStateWriters := by
  intro s t h changed
  rcases stepWith_cases h with ⟨empty, rfl⟩ | ⟨e, rest, scheduled, taken⟩
  · exact .inl ⟨empty, busy_of_engineTurn_hash changed⟩
  · refine .inr ⟨e, rest, scheduled, ?_⟩
    cases takeEvent_effect taken with
    | @regWrite r x _ effect =>
      rcases effect.writes_hash changed with ⟨rfl, bit, hb, hf⟩ | ⟨i, rfl, hb⟩ | ⟨rfl, hb, hf, raised⟩
      · exact .inr (.inr (.inl ⟨x, rfl, bit, hb, hf⟩))
      · obtain ⟨lower, upper⟩ := offset_state_range i
        exact .inr (.inr (.inr (.inl ⟨_, x, rfl, lower, upper, hb⟩)))
      · exact .inr (.inr (.inr (.inr ⟨x, rfl, hb, hf, raised⟩)))
    | engine => exact .inr (.inl ⟨rfl, busy_of_engineTurn_hash (s := { s with schedule := rest }) changed⟩)
    | reset => exact .inl rfl
    | _ => exact absurd rfl changed

end Sys2Proof.Machine
end

section
/-! PROOFS. The invariant of the machine (10_state R40, R41, R48; 20_memory R70): each effect of a register write and of an
event keeps it, so every step does. -/

namespace Sys2Proof.Machine

/-! ### The three parts -/

/-- The command part says nothing of a unit with BUSY = 0. -/
theorem CommandInv.of_not_busy {s : State} (h : s.busy = false) : CommandInv s where
  remain_pos busy := absurd busy (by simp [h])
  remain_le busy := absurd busy (by simp [h])
  progress busy := absurd busy (by simp [h])

/-- A fault with a cause ends the command and agrees with itself. -/
theorem FaultRecordInv.raiseFault {c : Cause} (named : c ≠ .none) (u : Word) (s : State) :
    FaultRecordInv (raiseFault c u s) where
  cause_none unfaulted := absurd unfaulted (by simp)
  info_zero unfaulted := absurd unfaulted (by simp)
  cause_some _ := by simpa using named
  not_busy _ := raiseFault_busy c u s

/-- A write of a byte that exists keeps the canonical form and lists no other address. -/
theorem MemoryInv.write {m : Nat} {s : State} (h : MemoryInv m s) {a : Nat} (inside : a < m) (b : Byte) :
    MemoryInv m { s with mem := Memory.write s.mem a b } where
  wf := Memory.wf_write h.wf a b
  inside c listed := (Memory.mem_write listed).elim (fun written => written ▸ inside) (h.inside c)

section
variable {m : Nat} {s : State} (h : Inv m s)
include h

/-- The invariant does not speak of the vector registers, the hash state or the model's own fields. -/
theorem Inv.of_frame (v : Vector Vec 32) (hash : HashState) (schedule : List Event) (x : Word) (b : Byte) (n : Nat) :
    Inv m { s with v := v, hash := hash, schedule := schedule, lastRead := x, lastByte := b, draws := n } where
  record := ⟨h.record.cause_none, h.record.info_zero, h.record.cause_some, h.record.not_busy⟩
  command := ⟨h.command.remain_pos, h.command.remain_le, h.command.progress⟩
  memory := ⟨h.memory.wf, h.memory.inside⟩

theorem Inv.withCommand (hb : s.busy = false) (a n : Word) : Inv m (s.withCommand a n) where
  record := ⟨h.record.cause_none, h.record.info_zero, h.record.cause_some, h.record.not_busy⟩
  command := .of_not_busy hb
  memory := ⟨h.memory.wf, h.memory.inside⟩

theorem Inv.raiseFault {c : Cause} (named : c ≠ .none) (u : Word) : Inv m (raiseFault c u s) where
  record := .raiseFault named u s
  command := .of_not_busy (raiseFault_busy c u s)
  memory := ⟨by simpa using h.memory.wf, by simpa using h.memory.inside⟩

theorem Inv.takeReset : Inv m (takeReset s) where
  record := ⟨fun _ => takeReset_cause s, fun _ => takeReset_faultInfo s, fun faulted => absurd faulted (by simp),
    fun _ => takeReset_busy s⟩
  command := .of_not_busy (takeReset_busy s)
  memory := ⟨by simpa using h.memory.wf, by simpa using h.memory.inside⟩

theorem Inv.memWrite {a : Nat} (inside : a < m) (b : Byte) : Inv m { s with mem := Memory.write s.mem a b } where
  record := ⟨h.record.cause_none, h.record.info_zero, h.record.cause_some, h.record.not_busy⟩
  command := ⟨h.command.remain_pos, h.command.remain_le, h.command.progress⟩
  memory := h.memory.write inside b

/-- START of an idle unit: REMAIN is NBLOCKS, which is not 0 where BUSY becomes 1. -/
theorem Inv.start (hb : s.busy = false) (hf : s.fault = false) : Inv m (start s) where
  record := ⟨h.record.cause_none, h.record.info_zero, h.record.cause_some, fun faulted => absurd faulted (by simp [hf])⟩
  command := by
    by_cases empty : s.nblocks = 0
    · exact .of_not_busy (by simp [empty, hb])
    · have some : 0 < s.nblocks.toNat := Nat.pos_of_ne_zero fun zero => empty (BitVec.eq_of_toNat_eq zero)
      exact ⟨fun _ => some, fun _ => Nat.le_refl _, fun _ => rfl⟩
  memory := ⟨h.memory.wf, h.memory.inside⟩

/-- A block step under a command: one block fewer is left, 64 bytes further on; the last one ends the command. -/
theorem Inv.blockStep (hb : s.busy = true) (hf : s.fault = false) (hash : HashState) :
    Inv m { s with hash := hash, curAddr := s.curAddr + 64, remain := s.remain - 1,
                   busy := if s.remain - 1 = 0 then false else s.busy } where
  record := ⟨h.record.cause_none, h.record.info_zero, h.record.cause_some, fun faulted => absurd faulted (by simp [hf])⟩
  command := by
    by_cases last : s.remain - 1 = 0
    · exact .of_not_busy (if_pos last)
    · have left := h.command.remain_pos hb
      have bound := h.command.remain_le hb
      have progress := h.command.progress hb
      have fewer : (s.remain - 1).toNat = s.remain.toNat - 1 := by bv_omega
      have more : (s.remain - 1).toNat ≠ 0 := fun zero => last (BitVec.eq_of_toNat_eq zero)
      refine ⟨fun _ => ?_, fun _ => ?_, fun _ => ?_⟩ <;> dsimp only <;> omega
  memory := ⟨h.memory.wf, h.memory.inside⟩

theorem Inv.engineTurn : Inv m (engineTurn m s) := by
  rcases engineTurn_cases m s with ⟨-, rest⟩ | ⟨hb, hf, -, block⟩ | ⟨-, -, -, fault⟩
  · rwa [rest]
  · rw [block]
    exact h.blockStep hb hf _
  · rw [fault]
    exact h.raiseFault (by decide) _

theorem Inv.writeEffect {r : BlockReg} {x : Word} {t : State} (effect : WriteEffect x s r t) : Inv m t := by
  cases effect with
  | ignored => exact h
  | init => exact h.of_frame ..
  | start hb hf => exact h.start hb hf
  | initStart _ hb hf => exact Inv.start (h.of_frame s.v h0 s.schedule s.lastRead s.lastByte s.draws) hb hf
  | srcAddr hb => exact h.withCommand hb x s.nblocks
  | nblocks hb => exact h.withCommand hb s.srcAddr x
  | state => exact h.of_frame ..
  | executed => exact h.of_frame ..
  | undefined u => exact h.raiseFault (by decide) u
  | vreg => exact h.of_frame ..

theorem Inv.eventEffect {e : Event} {t : State} (effect : EventEffect m s e t) : Inv m t := by
  cases effect with
  | regWrite write => exact h.writeEffect write
  | regRead => exact h.of_frame ..
  | memRead => exact h.of_frame ..
  | memWrite a b inside => exact h.memWrite inside b
  | engine => exact h.engineTurn
  | reset => exact h.takeReset

end

/-- Settles O53: a step is the engine's turn or the next event, and both keep the invariant. -/
theorem stepKeepsInvariant : Obligations.StepKeepsInvariant := by
  intro s t h stepped
  rcases stepWith_cases stepped with ⟨-, rfl⟩ | ⟨e, rest, -, taken⟩
  · exact h.engineTurn
  · exact (h.of_frame s.v s.hash rest s.lastRead s.lastByte s.draws).eventEffect (takeEvent_effect taken)

end Sys2Proof.Machine
end

section
/-! PROOFS. Message memory (20_memory): what the host's accesses do, that nothing else writes memory, and how the bytes of a
block make its words and its schedule vectors. -/

namespace Sys2Proof

/-! ### Bytes and words -/

/-- Joined bit vectors weigh the high part by the width of the low one. -/
theorem toNat_append_eq_add {v w : Nat} (hi : BitVec v) (lo : BitVec w) :
    (hi ++ lo).toNat = hi.toNat * 2 ^ w + lo.toNat := by
  rw [BitVec.toNat_append, ← Nat.shiftLeft_add_eq_or_of_lt lo.isLt, Nat.shiftLeft_eq]

theorem toNat_beWord (b0 b1 b2 b3 : Byte) :
    (beWord b0 b1 b2 b3).toNat = b0.toNat * 2 ^ 24 + b1.toNat * 2 ^ 16 + b2.toNat * 2 ^ 8 + b3.toNat := by
  simp only [beWord, toNat_append_eq_add]
  omega

/-- The word whose byte 0, in bits 7:0, is the first of four bytes (20_memory R72). -/
def leWord (b0 b1 b2 b3 : Byte) : Word := b3 ++ b2 ++ b1 ++ b0

theorem extractLsb'_leWord (b0 b1 b2 b3 : Byte) (k : Fin 4) :
    (leWord b0 b1 b2 b3).extractLsb' (8 * k.val) 8 = ![b0, b1, b2, b3] k := extractLsb'_append_four b0 b1 b2 b3 k

/-- Reversing the bytes of a little-endian word gives the big-endian word of the same four bytes. -/
theorem bswap32_leWord (b0 b1 b2 b3 : Byte) : bswap32 (leWord b0 b1 b2 b3) = beWord b0 b1 b2 b3 := by
  have byte := extractLsb'_leWord b0 b1 b2 b3
  have h0 : (leWord b0 b1 b2 b3).extractLsb' 0 8 = b0 := byte 0
  have h1 : (leWord b0 b1 b2 b3).extractLsb' 8 8 = b1 := byte 1
  have h2 : (leWord b0 b1 b2 b3).extractLsb' 16 8 = b2 := byte 2
  have h3 : (leWord b0 b1 b2 b3).extractLsb' 24 8 = b3 := byte 3
  rw [bswap32, h0, h1, h2, h3, beWord]

namespace Machine

/-! ### Blocks -/

theorem getElem_readBlock (m : Memory) (a : Nat) {k : Nat} (h : k < 64) :
    (Memory.readBlock m a)[k] = Memory.read m (a + k) := Vector.getElem_ofFn h

theorem elem_vecRev32 (v : Vec) (e : Fin 4) : (vecRev32 v).elem e = bswap32 (v.elem e) := by
  match e with
  | 0 | 1 | 2 | 3 => rfl

theorem getElem_blockMsg (b : Block) (j : Fin 4) : (blockMsg b)[j.val] = blockVec b j := by
  match j with
  | 0 | 1 | 2 | 3 => rfl

theorem elem_blockVec (b : Block) (j e : Fin 4) :
    (blockVec b j).elem e = blockWord b ⟨4 * j.val + e.val, by omega⟩ := by
  match e with
  | 0 | 1 | 2 | 3 => rfl

theorem elem_leVec (b : Block) (j e : Fin 4) :
    (leVec b j).elem e =
      leWord b[16 * j.val + 4 * e.val] b[16 * j.val + 4 * e.val + 1] b[16 * j.val + 4 * e.val + 2]
        b[16 * j.val + 4 * e.val + 3] := by
  match e with
  | 0 | 1 | 2 | 3 => rfl

/-- Settles O40: the value of a big-endian word of the bytes read, and the lanes of each schedule vector in order. -/
theorem blockWordsBigEndian : Obligations.BlockWordsBigEndian := by
  intro m a
  refine ⟨fun t => ?_, fun j e => ?_⟩
  · rw [blockWord, toNat_beWord]
    simp only [getElem_readBlock, Nat.add_assoc]
  · rw [getElem_blockMsg, elem_blockVec]

/-- Settles O41: the lanes of both loads are words of the same four bytes, and REV32 reverses each lane. -/
theorem rev32OfLittleEndianLoad : Obligations.Rev32OfLittleEndianLoad := by
  intro b j
  refine ⟨fun e k => ?_, Vec.eq_of_elem fun e => ?_⟩
  · rw [elem_leVec, extractLsb'_leWord]
    match k with
    | 0 | 1 | 2 | 3 => rfl
  · have first : 4 * (4 * j.val + e.val) = 16 * j.val + 4 * e.val := by omega
    rw [elem_vecRev32, elem_leVec, bswap32_leWord, elem_blockVec]
    simp only [blockWord, first]

/-! ### Reading after a write -/

/-- A memory in which address a holds x and every other address what it did. -/
theorem Memory.read_cell (m : Memory) (a b : Nat) (x : Byte) :
    Memory.read ((a, x) :: m) b = if b = a then x else Memory.read m b := by
  simp only [Memory.read, eq_comm]

/-- Putting a byte in front writes it, whether or not it is listed. -/
theorem Memory.read_consCell {m : Memory} {a : Nat} (h : ∀ c ∈ m, a < c.1) (b : Nat) (x : Byte) :
    Memory.read (Memory.cons a x m) b = if b = a then x else Memory.read m b := by
  unfold Memory.cons
  split
  · next unlisted =>
    split
    · next same => rw [same, unlisted, Memory.read_of_lt_all m a h]
    · rfl
  · exact Memory.read_cell m a b x

/-- Settles O37, by induction on the cells: the write is in front of the first one, replaces it or is behind it. -/
theorem memoryReadAfterWrite : Obligations.MemoryReadAfterWrite := by
  intro m a b x canonical
  induction m with
  | nil => exact Memory.read_consCell (by simp) b x
  | cons cell m ih =>
    obtain ⟨c, y⟩ := cell
    obtain ⟨-, higher, rest⟩ := (Memory.wf_cons_iff c y m).1 canonical
    rcases Nat.lt_trichotomy a c with before | rfl | behind
    · have all : ∀ d ∈ (c, y) :: m, a < d.1 :=
        List.forall_mem_cons.2 ⟨before, fun d listed => Nat.lt_trans before (higher d listed)⟩
      rw [Memory.write, if_pos before, Memory.read_consCell all]
    · rw [Memory.write, if_neg (Nat.lt_irrefl a), if_pos rfl, Memory.read_consCell higher, Memory.read_cell]
      split <;> rfl
    · have apart : a ≠ c := by omega
      rw [Memory.write, if_neg (Nat.lt_asymm behind), if_neg apart, Memory.read_cell, Memory.read_cell, ih rest]
      by_cases front : b = c
      · rw [if_pos front, if_pos front, if_neg (front ▸ apart.symm)]
      · rw [if_neg front, if_neg front]

/-! ### Host accesses to bytes -/

theorem inActiveBlocks_iff (s : State) (a : Nat) :
    s.inActiveBlocks a = true ↔
      s.busy = true ∧ s.srcAddr.toNat ≤ a ∧ a < s.srcAddr.toNat + 64 * s.nblocks.toNat := by
  simp [State.inActiveBlocks, and_assoc]

theorem hostMemRead_inside {m a : Nat} (h : a < m) (s : State) :
    hostMemRead m a s = .next { s with lastByte := Memory.read s.mem a } := if_neg (Nat.not_le.2 h)

theorem hostMemRead_outside {m a : Nat} (h : m ≤ a) (s : State) : hostMemRead m a s = .fault .outsideMemory := if_pos h

theorem hostMemWrite_outside {m a : Nat} (h : m ≤ a) (x : Byte) (s : State) :
    hostMemWrite m a x s = .fault .outsideMemory := if_pos h

theorem hostMemWrite_active {m a : Nat} {s : State} (h : a < m) (active : s.inActiveBlocks a = true) (x : Byte) :
    hostMemWrite m a x s = .refused .activeBlockWrite := by
  rw [hostMemWrite, if_neg (Nat.not_le.2 h), if_pos active]

theorem hostMemWrite_free {m a : Nat} {s : State} (h : a < m) (free : ¬ s.inActiveBlocks a = true) (x : Byte) :
    hostMemWrite m a x s = .next { s with mem := Memory.write s.mem a x } := by
  rw [hostMemWrite, if_neg (Nat.not_le.2 h), if_neg free]

/-- Settles O38: outside memory both accesses fault; inside, a write looks at the active blocks. -/
theorem hostMemoryAccess : Obligations.HostMemoryAccess := by
  intro s a x
  refine ⟨fun outside => ⟨hostMemWrite_outside outside x s, hostMemRead_outside outside s⟩, fun inside =>
    ⟨hostMemRead_inside inside s, fun busy lower upper => ?_, fun free => ?_⟩⟩
  · exact hostMemWrite_active inside ((inActiveBlocks_iff s a).2 ⟨busy, lower, upper⟩) x
  · refine hostMemWrite_free inside (fun active => ?_) x
    obtain ⟨busy, lower, upper⟩ := (inActiveBlocks_iff s a).1 active
    rcases free with idle | below | above
    · simp [busy] at idle
    · omega
    · omega

/-! ### What leaves memory alone -/

/-- Settles O36: a read that answers leaves the effect of a read, and STATUS and FAULT_INFO ignore a write. -/
theorem readsHaveNoEffect : Obligations.ReadsHaveNoEffect := by
  refine ⟨fun off width s t h => ?_, fun s x => ⟨step_regWrite .status x s, step_regWrite .faultInfo x s⟩⟩
  rw [step_offer] at h
  cases takeEvent_effect h with
  | regRead => rfl

@[simp] theorem engineTurn_mem (m : Nat) (s : State) : (engineTurn m s).mem = s.mem := by
  rcases engineTurn_cases m s with ⟨-, h⟩ | ⟨-, -, -, h⟩ | ⟨-, -, -, h⟩ <;> simp [h]

/-- No write of a register changes message memory. -/
theorem WriteEffect.keeps_mem {x : Word} {s t : State} {r : BlockReg} (h : WriteEffect x s r t) : t.mem = s.mem := by
  cases h with
  | undefined u => exact raiseFault_mem _ u s
  | _ => rfl

/-- Settles O39: the engine's turn keeps memory, and so does every event but a host write of a byte. -/
theorem unitNeverWritesMemory : Obligations.UnitNeverWritesMemory := by
  intro s t h changed
  rcases stepWith_cases h with ⟨-, rfl⟩ | ⟨e, rest, scheduled, taken⟩
  · exact absurd (engineTurn_mem _ s) changed
  · cases takeEvent_effect taken with
    | memWrite a x => exact ⟨a, x, rest, scheduled⟩
    | regWrite effect => exact absurd effect.keeps_mem changed
    | engine => exact absurd (engineTurn_mem _ _) changed
    | reset => exact absurd (takeReset_mem _) changed
    | _ => exact absurd rfl changed

end Machine

end Sys2Proof
end

section
/-! PROOFS. Words and instructions (30_encoding R100..R104): the register fields of a word, the word of each instruction as
its row's pattern with the register numbers put into their fields, and the decoder as a search for the one row that matches. -/

namespace Sys2Proof

/-! ### Register fields -/

theorem val_regField (lo : Nat) (w : Word) : (regField lo w).val = w.toNat / 2 ^ lo % 32 := by
  rw [← Nat.shiftRight_eq_div_pow]
  exact BitVec.extractLsb'_toNat lo 5 w

theorem rdOf_eq (w : Word) : rdOf w = ⟨w.toNat % 32, Nat.mod_lt _ (by decide)⟩ :=
  Fin.ext ((val_regField 0 w).trans (congrArg (· % 32) (Nat.div_one w.toNat)))

theorem rnOf_eq (w : Word) : rnOf w = ⟨w.toNat / 32 % 32, Nat.mod_lt _ (by decide)⟩ := Fin.ext (val_regField 5 w)

theorem rmOf_eq (w : Word) : rmOf w = ⟨w.toNat / 65536 % 32, Nat.mod_lt _ (by decide)⟩ := Fin.ext (val_regField 16 w)

@[simp] theorem toFin_regBits (r : VReg) : (regBits r).toFin = r :=
  Fin.ext (Nat.mod_eq_of_lt r.isLt)

@[simp] theorem regBits_regField (lo : Nat) (w : Word) : regBits (regField lo w) = w.extractLsb' lo 5 :=
  BitVec.eq_of_toNat_eq (Nat.mod_eq_of_lt (regField lo w).isLt)

/-- Bit i of a field put at lo. -/
theorem getElem_bitsAt {n : Nat} (lo : Nat) (x : BitVec n) {i : Nat} (hi : i < 32) :
    (bitsAt lo x)[i] = (decide (lo ≤ i) && x.getLsbD (i - lo)) := by
  by_cases low : i < lo
  · simp [bitsAt, low, Nat.not_le.2 low]
  · simp [bitsAt, low, Nat.not_lt.1 low]

@[simp] theorem bitsAt_regBits_zero (lo : Nat) : bitsAt lo (regBits 0) = 0#32 := BitVec.zero_shiftLeft lo

/-- Taking a field out of a word and putting it back is masking the word. -/
theorem bitsAt_extractLsb' (lo : Nat) (w : Word) : bitsAt lo (w.extractLsb' lo 5) = w &&& bitsAt lo 31#5 := by
  ext i hi
  rw [BitVec.getElem_and, getElem_bitsAt, getElem_bitsAt]
  by_cases low : lo ≤ i
  · have back : lo + (i - lo) = i := by omega
    have ones : (31#5).getLsbD (i - lo) = decide (i - lo < 5) := BitVec.getLsbD_allOnes (v := 5) (i := i - lo)
    simp [low, back, ones, hi, Bool.and_comm]
  · simp [low]

theorem extractLsb'_bitsAt_same {lo : Nat} (x : BitVec 5) (h : lo + 5 ≤ 32) : (bitsAt lo x).extractLsb' lo 5 = x := by
  ext i hi
  have inside : lo + i < 32 := by omega
  rw [BitVec.getElem_extractLsb', BitVec.getLsbD_eq_getElem inside, getElem_bitsAt]
  simp [hi]

theorem extractLsb'_bitsAt_apart {lo lo' : Nat} (x : BitVec 5) (h : lo + 5 ≤ lo' ∨ lo' + 5 ≤ lo) :
    (bitsAt lo' x).extractLsb' lo 5 = 0#5 := by
  ext i hi
  by_cases inside : lo + i < 32
  · rw [BitVec.getElem_extractLsb', BitVec.getLsbD_eq_getElem inside, getElem_bitsAt]
    rcases h with above | below
    · have outside : ¬ lo' ≤ lo + i := by omega
      simp [outside]
    · have outside : 5 ≤ lo + i - lo' := by omega
      simp [BitVec.getLsbD_of_ge x _ outside]
  · simp [BitVec.getLsbD_of_ge _ _ (Nat.not_lt.1 inside)]

/-! ### Words with register fields -/

/-- A row's pattern with Rd and Rn put into their fields. -/
def twoRegWord (p : Word) (d n : VReg) : Word := p ||| bitsAt 5 (regBits n) ||| bitsAt 0 (regBits d)

/-- A row's pattern with Rd, Rn and Rm put into their fields. -/
def threeRegWord (p : Word) (d n m : VReg) : Word := twoRegWord (p ||| bitsAt 16 (regBits m)) d n

theorem word_or_right_comm (x y z : Word) : x ||| y ||| z = x ||| z ||| y := by
  rw [BitVec.or_assoc, BitVec.or_comm y z, BitVec.or_assoc]

theorem encodeSha3_eq (op : BitVec 3) (d n m : VReg) :
    encodeSha3 op d n m = threeRegWord (encodeSha3 op 0 0 0) d n m := by
  simp only [encodeSha3, threeRegWord, twoRegWord, bitsAt_regBits_zero, BitVec.or_zero]
  simp only [word_or_right_comm _ (bitsAt 16 (regBits m))]

theorem encodeSha2_eq (op : BitVec 5) (d n : VReg) : encodeSha2 op d n = twoRegWord (encodeSha2 op 0 0) d n := by
  simp only [encodeSha2, twoRegWord, bitsAt_regBits_zero, BitVec.or_zero]

theorem encodeThreeSame_eq (q u : BitVec 1) (size : BitVec 2) (op : BitVec 5) (d n m : VReg) :
    encodeThreeSame q u size op d n m = threeRegWord (encodeThreeSame q u size op 0 0 0) d n m := by
  simp only [encodeThreeSame, threeRegWord, twoRegWord, bitsAt_regBits_zero, BitVec.or_zero]
  simp only [word_or_right_comm _ (bitsAt 16 (regBits m))]

theorem encodeTwoMisc_eq (q u : BitVec 1) (size : BitVec 2) (op : BitVec 5) (d n : VReg) :
    encodeTwoMisc q u size op d n = twoRegWord (encodeTwoMisc q u size op 0 0) d n := by
  simp only [encodeTwoMisc, twoRegWord, bitsAt_regBits_zero, BitVec.or_zero]

/-! Each instruction's word by its row's pattern (30_encoding R103). -/

theorem encode_sha256h (d n m : VReg) : encode (.sha256h d n m) = threeRegWord 0x5E004000 d n m := encodeSha3_eq _ d n m
theorem encode_sha256h2 (d n m : VReg) : encode (.sha256h2 d n m) = threeRegWord 0x5E005000 d n m := encodeSha3_eq _ d n m
theorem encode_sha256su1 (d n m : VReg) : encode (.sha256su1 d n m) = threeRegWord 0x5E006000 d n m :=
  encodeSha3_eq _ d n m
theorem encode_sha256su0 (d n : VReg) : encode (.sha256su0 d n) = twoRegWord 0x5E282800 d n := encodeSha2_eq _ d n
theorem encode_add (d n m : VReg) : encode (.add d n m) = threeRegWord 0x4EA08400 d n m :=
  encodeThreeSame_eq _ _ _ _ d n m
theorem encode_orr (d n m : VReg) : encode (.orr d n m) = threeRegWord 0x4EA01C00 d n m :=
  encodeThreeSame_eq _ _ _ _ d n m
theorem encode_rev32 (d n : VReg) : encode (.rev32 d n) = twoRegWord 0x6E200800 d n := encodeTwoMisc_eq _ _ _ _ d n

/-- A word with the fixed bits of a row is that row's pattern with its own fields: the fixed bits and the fields are all its
bits. -/
theorem twoRegWord_fields {p w : Word} (h : w &&& 0xFFFFFC00#32 = p) : twoRegWord p (rdOf w) (rnOf w) = w := by
  have all : 0xFFFFFC00#32 ||| bitsAt 5 31#5 ||| bitsAt 0 31#5 = BitVec.allOnes 32 := by decide
  simp only [twoRegWord, rdOf, rnOf, regBits_regField, bitsAt_extractLsb', ← h, ← BitVec.and_or_distrib_left, all,
    BitVec.and_allOnes]

theorem threeRegWord_fields {p w : Word} (h : w &&& 0xFFE0FC00#32 = p) :
    threeRegWord p (rdOf w) (rnOf w) (rmOf w) = w := by
  have all : 0xFFE0FC00#32 ||| bitsAt 16 31#5 ||| bitsAt 5 31#5 ||| bitsAt 0 31#5 = BitVec.allOnes 32 := by decide
  simp only [threeRegWord, twoRegWord, rdOf, rnOf, rmOf, regBits_regField, bitsAt_extractLsb', ← h,
    ← BitVec.and_or_distrib_left, all, BitVec.and_allOnes]

@[simp] theorem rdOf_twoRegWord {p : Word} (d n : VReg) (free : p.extractLsb' 0 5 = 0#5) : rdOf (twoRegWord p d n) = d := by
  simp [rdOf, regField, twoRegWord, BitVec.extractLsb'_or, free, extractLsb'_bitsAt_same, extractLsb'_bitsAt_apart]

@[simp] theorem rnOf_twoRegWord {p : Word} (d n : VReg) (free : p.extractLsb' 5 5 = 0#5) : rnOf (twoRegWord p d n) = n := by
  simp [rnOf, regField, twoRegWord, BitVec.extractLsb'_or, free, extractLsb'_bitsAt_same, extractLsb'_bitsAt_apart]

@[simp] theorem rmOf_threeRegWord {p : Word} (d n m : VReg) (free : p.extractLsb' 16 5 = 0#5) :
    rmOf (threeRegWord p d n m) = m := by
  simp [rmOf, regField, threeRegWord, twoRegWord, BitVec.extractLsb'_or, free, extractLsb'_bitsAt_same,
    extractLsb'_bitsAt_apart]

@[simp] theorem rdOf_threeRegWord {p : Word} (d n m : VReg) (free : p.extractLsb' 0 5 = 0#5) :
    rdOf (threeRegWord p d n m) = d :=
  rdOf_twoRegWord d n (by simp [BitVec.extractLsb'_or, free, extractLsb'_bitsAt_apart])

@[simp] theorem rnOf_threeRegWord {p : Word} (d n m : VReg) (free : p.extractLsb' 5 5 = 0#5) :
    rnOf (threeRegWord p d n m) = n :=
  rnOf_twoRegWord d n (by simp [BitVec.extractLsb'_or, free, extractLsb'_bitsAt_apart])

/-! ### The opcode map -/

/-- Any two rows fix some bit to different values. -/
theorem opcodeTable_apart :
    opcodeTable.Pairwise fun r r' => r.pattern &&& r'.mask ≠ r'.pattern &&& r.mask := by decide

theorem opcodeTable_disjoint (w : Word) :
    opcodeTable.Pairwise fun r r' => ¬ (w &&& r.mask = r.pattern ∧ w &&& r'.mask = r'.pattern) := by
  refine opcodeTable_apart.imp fun {r r'} apart ⟨first, second⟩ => apart ?_
  rw [← first, ← second, BitVec.and_assoc, BitVec.and_assoc, BitVec.and_comm r.mask]

/-- A word of row k decodes by that row: no earlier row matches it. -/
theorem decode_of_row {w : Word} (k : Nat) (hk : k < opcodeTable.length)
    (matched : w &&& opcodeTable[k].mask = opcodeTable[k].pattern) : decode w = .ok (opcodeTable[k].build w) := by
  have found : opcodeTable.find? (fun r => w &&& r.mask == r.pattern) = some opcodeTable[k] := by
    refine List.find?_eq_some_iff_getElem.2 ⟨beq_iff_eq.2 matched, k, hk, rfl, fun j earlier => ?_⟩
    have apart := List.pairwise_iff_getElem.1 (opcodeTable_disjoint w) j k (by omega) hk earlier
    simpa using fun other => apart ⟨other, matched⟩
  rw [decode, found]

theorem decode_of_no_row {w : Word} (unmatched : ∀ r ∈ opcodeTable, w &&& r.mask ≠ r.pattern) :
    decode w = .error (.undefined w) := by
  have missing : opcodeTable.find? (fun r => w &&& r.mask == r.pattern) = none :=
    List.find?_eq_none.2 fun r member => by simpa using unmatched r member
  rw [decode, missing]

/-- A word that decodes is of the row that built its instruction. -/
theorem row_of_decode_ok {w : Word} {i : Instr} (h : decode w = .ok i) :
    ∃ r ∈ opcodeTable, w &&& r.mask = r.pattern ∧ r.build w = i := by
  unfold decode at h
  split at h
  · next r found => exact ⟨r, List.mem_of_find?_eq_some found, by simpa using List.find?_some found, Except.ok.inj h⟩
  · cases h

section Rows

variable {w : Word}

theorem decode_sha256h (h : w &&& 0xFFE0FC00#32 = 0x5E004000#32) :
    decode w = .ok (.sha256h (rdOf w) (rnOf w) (rmOf w)) := decode_of_row 0 (by decide) h

theorem decode_sha256h2 (h : w &&& 0xFFE0FC00#32 = 0x5E005000#32) :
    decode w = .ok (.sha256h2 (rdOf w) (rnOf w) (rmOf w)) := decode_of_row 1 (by decide) h

theorem decode_sha256su1 (h : w &&& 0xFFE0FC00#32 = 0x5E006000#32) :
    decode w = .ok (.sha256su1 (rdOf w) (rnOf w) (rmOf w)) := decode_of_row 2 (by decide) h

theorem decode_sha256su0 (h : w &&& 0xFFFFFC00#32 = 0x5E282800#32) :
    decode w = .ok (.sha256su0 (rdOf w) (rnOf w)) := decode_of_row 3 (by decide) h

theorem decode_add (h : w &&& 0xFFE0FC00#32 = 0x4EA08400#32) :
    decode w = .ok (.add (rdOf w) (rnOf w) (rmOf w)) := decode_of_row 4 (by decide) h

theorem decode_orr (h : w &&& 0xFFE0FC00#32 = 0x4EA01C00#32) :
    decode w = .ok (.orr (rdOf w) (rnOf w) (rmOf w)) := decode_of_row 5 (by decide) h

theorem decode_rev32 (h : w &&& 0xFFFFFC00#32 = 0x6E200800#32) :
    decode w = .ok (.rev32 (rdOf w) (rnOf w)) := decode_of_row 6 (by decide) h

end Rows

/-! ### Decoder and encoder -/

/-- Settles O1: the word of an instruction has the fixed bits of its row, and its fields hold the registers. -/
theorem decodeOfEncode : Obligations.DecodeOfEncode := by
  intro i
  cases i with
  | sha256h d n m => rw [decode_sha256h (Laws.EncodingRow.sha256h d n m), encode_sha256h]; simp
  | sha256h2 d n m => rw [decode_sha256h2 (Laws.EncodingRow.sha256h2 d n m), encode_sha256h2]; simp
  | sha256su1 d n m => rw [decode_sha256su1 (Laws.EncodingRow.sha256su1 d n m), encode_sha256su1]; simp
  | sha256su0 d n => rw [decode_sha256su0 (Laws.EncodingRow.sha256su0 d n), encode_sha256su0]; simp
  | add d n m => rw [decode_add (Laws.EncodingRow.add d n m), encode_add]; simp
  | orr d n m => rw [decode_orr (Laws.EncodingRow.orr d n m), encode_orr]; simp
  | rev32 d n => rw [decode_rev32 (Laws.EncodingRow.rev32 d n), encode_rev32]; simp

/-- The instruction a row builds of a word of that row has this word. -/
theorem encode_build {w : Word} {r : OpcodeRow} (member : r ∈ opcodeTable) (matched : w &&& r.mask = r.pattern) :
    encode (r.build w) = w := by
  simp only [opcodeTable, List.mem_cons, List.not_mem_nil, or_false] at member
  rcases member with rfl | rfl | rfl | rfl | rfl | rfl | rfl
  · exact (encode_sha256h _ _ _).trans (threeRegWord_fields matched)
  · exact (encode_sha256h2 _ _ _).trans (threeRegWord_fields matched)
  · exact (encode_sha256su1 _ _ _).trans (threeRegWord_fields matched)
  · exact (encode_sha256su0 _ _).trans (twoRegWord_fields matched)
  · exact (encode_add _ _ _).trans (threeRegWord_fields matched)
  · exact (encode_orr _ _ _).trans (threeRegWord_fields matched)
  · exact (encode_rev32 _ _).trans (twoRegWord_fields matched)

/-- Settles O2: the word is of the row that built the instruction, and rows have no bits but fixed bits and fields. -/
theorem encodeOfDecode : Obligations.EncodeOfDecode := by
  intro w i h
  obtain ⟨r, member, matched, rfl⟩ := row_of_decode_ok h
  exact encode_build member matched

/-- Settles O3: row by row the lemma of that row; an undefined word is rejected by itself, which the port then raises. -/
theorem opcodeMap : Obligations.OpcodeMap := by
  intro w d n m
  rw [show d = rdOf w from (rdOf_eq w).symm, show n = rnOf w from (rnOf_eq w).symm,
    show m = rmOf w from (rmOf_eq w).symm]
  refine ⟨decode_sha256h, decode_sha256h2, decode_sha256su1, decode_sha256su0, decode_add, decode_orr, decode_rev32,
    fun h1 h2 h3 h4 h5 h6 h7 => ?_, opcodeTable_disjoint w⟩
  have rejected : decode w = .error (.undefined w) :=
    decode_of_no_row (by simpa [opcodeTable] using ⟨h1, h2, h3, h4, h5, h6, h7⟩)
  exact ⟨rejected, fun s hf =>
    (Machine.step_regWrite .instr w s).trans (Machine.writeInstr_of_decode_error hf rejected)⟩

/-- Settles O4: the spec's eight instructions have the listed words, and no row matches the other ten. -/
theorem exampleWordsDecode : Obligations.ExampleWordsDecode := by
  refine ⟨decodeOfEncode (.sha256h 0 1 4), decodeOfEncode (.sha256h2 1 5 4), decodeOfEncode (.sha256su1 16 18 19),
    decodeOfEncode (.sha256su0 16 16), decodeOfEncode (.add 0 1 2), decodeOfEncode (.orr 0 1 2),
    decodeOfEncode (.mov 5 0), decodeOfEncode (.rev32 0 1), fun w listed => decode_of_no_row ?_⟩
  revert w
  simp [opcodeTable]

end Sys2Proof
end

section
/-! PROOFS. The assembler (30_encoding R105, R106): which lines assemble, and to what. -/

namespace Sys2Proof

/-- A line assembles exactly when its arrangements are the mnemonic's, its register numbers are below 32 and the mnemonic
builds the instruction of them. -/
theorem assemble_eq_ok_iff {l : AsmLine} {i : Instr} :
    assemble l = .ok i ↔
      l.ops.map (·.arr) = l.mnemonic.shape ∧ (∀ o ∈ l.ops, o.reg < 32) ∧
        l.mnemonic.build (l.ops.map fun o => Fin.ofNat 32 o.reg) = some i := by
  constructor
  · intro h
    unfold assemble at h
    split at h
    · cases h
    split at h
    · cases h
    split at h
    · cases h
    next shape range =>
    split at h
    · next built => exact ⟨not_not.1 shape, by simpa using range, Except.ok.inj h ▸ built⟩
    · cases h
  · rintro ⟨shape, range, built⟩
    have count : l.ops.length = l.mnemonic.shape.length := by rw [← shape, List.length_map]
    have small : ¬ l.ops.any (fun o => 32 ≤ o.reg) := by simpa using range
    rw [assemble, if_neg (not_not.2 count), if_neg (not_not.2 shape), if_neg small, built]

/-- The registers of what a mnemonic builds are those it was given; MOV names its second one twice (30_encoding R106). -/
theorem regs_of_build {k : Mnemonic} {rs : List VReg} {i : Instr} (h : k.build rs = some i) :
    i.regs = rs ++ if k = .mov then rs.drop 1 else [] := by
  unfold Mnemonic.build at h
  split at h
  case h_9 => cases h
  all_goals
    cases h
    rfl

/-- A line of one register operand for each of the mnemonic's arrangements assembles to what the mnemonic builds. -/
theorem assemble_spelled (k : Mnemonic) (rs : List VReg) {i : Instr} (count : rs.length = k.shape.length)
    (built : k.build rs = some i) :
    assemble ⟨k, (rs.zip k.shape).map fun o => ⟨o.1.val, o.2⟩⟩ = .ok i := by
  have numbers : (rs.zip k.shape).map (fun o => Fin.ofNat 32 o.1.val) = rs := by
    simpa using List.map_fst_zip count.le
  refine assemble_eq_ok_iff.2 ⟨?_, ?_, ?_⟩
  · rw [List.map_map]
    exact List.map_snd_zip count.ge
  · exact List.forall_mem_map.2 fun o _ => o.1.isLt
  · rw [List.map_map]
    exact (congrArg k.build numbers).trans built

/-- Settles O5: the lines of the first two clauses are spelled, and the third clause reads off what assembles. -/
theorem assemblerSpelling : Obligations.AssemblerSpelling := by
  refine ⟨fun i => ?_, fun d n => assemble_spelled .mov [d, n] rfl rfl, fun l i h => ?_⟩
  · cases i with
    | sha256h d n m => exact assemble_spelled .sha256h [d, n, m] rfl rfl
    | sha256h2 d n m => exact assemble_spelled .sha256h2 [d, n, m] rfl rfl
    | sha256su1 d n m => exact assemble_spelled .sha256su1 [d, n, m] rfl rfl
    | sha256su0 d n => exact assemble_spelled .sha256su0 [d, n] rfl rfl
    | add d n m => exact assemble_spelled .add [d, n, m] rfl rfl
    | orr d n m => exact assemble_spelled .orr [d, n, m] rfl rfl
    | rev32 d n => exact assemble_spelled .rev32 [d, n] rfl rfl
  · obtain ⟨shape, range, built⟩ := assemble_eq_ok_iff.1 h
    have numbers : (l.ops.map fun o => Fin.ofNat 32 o.reg).map Fin.val = l.ops.map (·.reg) := by
      rw [List.map_map]
      exact List.map_congr_left fun o member => Nat.mod_eq_of_lt (range o member)
    refine ⟨shape, range, ?_⟩
    rw [regs_of_build built, List.map_append, numbers]
    split
    · rw [List.map_drop, numbers]
    · rfl

end Sys2Proof
end

section
/-! PROOFS. Running an instruction (30_encoding R110): the value of Rd as a function of the source registers, and the step
that runs the word of an instruction. -/

namespace Sys2Proof

/-- The value an instruction gives Rd, from what the vector registers hold. -/
def Instr.result (i : Instr) (v : VReg → Vec) : Vec :=
  match i with
  | .sha256h d n m => Machine.hashQuad (v d) (v n) (v m) true
  | .sha256h2 d n m => Machine.hashQuad (v n) (v d) (v m) false
  | .sha256su1 d n m => Machine.su1 (v d) (v n) (v m)
  | .sha256su0 d n => Machine.su0 (v d) (v n)
  | .add _ n m => Machine.vecAdd (v n) (v m)
  | .orr _ n m => Machine.vecOr (v n) (v m)
  | .rev32 _ n => Machine.vecRev32 (v n)

/-- Register contents that agree on the sources give the same result. -/
theorem Instr.result_congr {i : Instr} {v v' : VReg → Vec} (agree : ∀ r ∈ i.sources, v r = v' r) :
    i.result v = i.result v' := by
  cases i with
  | sha256h d n m | sha256h2 d n m | sha256su1 d n m =>
    obtain ⟨hd, hn, hm⟩ : v d = v' d ∧ v n = v' n ∧ v m = v' m := by simpa [Instr.sources] using agree
    simp only [Instr.result, hd, hn, hm]
  | sha256su0 d n =>
    obtain ⟨hd, hn⟩ : v d = v' d ∧ v n = v' n := by simpa [Instr.sources] using agree
    simp only [Instr.result, hd, hn]
  | add d n m | orr d n m =>
    obtain ⟨hn, hm⟩ : v n = v' n ∧ v m = v' m := by simpa [Instr.sources] using agree
    simp only [Instr.result, hn, hm]
  | rev32 d n =>
    have hn : v n = v' n := by simpa [Instr.sources] using agree
    simp only [Instr.result, hn]

namespace Machine

/-- An instruction writes its result to Rd. -/
theorem exec_eq_result (i : Instr) (s : State) : exec i s = .next (s.writeV i.rd (i.result s.readV)) := by
  cases i <;> rfl

theorem readV_rd_of_exec {i : Instr} {s t : State} (h : exec i s = .next t) : t.readV i.rd = i.result s.readV := by
  obtain rfl := Host.Outcome.next.inj ((exec_eq_result i s).symm.trans h)
  exact readV_writeV_same s i.rd _

/-- Settles O22: both runs leave the result in Rd, and the result looks at the sources alone. -/
theorem resultFromSources : Obligations.ResultFromSources := by
  intro i s s' t t' agree run run'
  rw [readV_rd_of_exec run, readV_rd_of_exec run']
  exact Instr.result_congr agree

theorem step_instr_of_decode_ok {s : State} {w : Word} {i : Instr} (hf : s.fault = false) (hi : decode w = .ok i) :
    step (offer (.regWrite 0x014 32 w) s) = exec i s :=
  (step_regWrite .instr w s).trans (writeInstr_of_decode_ok hf hi)

/-- Placing a word is clearing the fault record and offering its INSTR write. -/
theorem withFetchWord_eq_offer (s : State) (w : Word) :
    s.withFetchWord 32 w.toNat =
      offer (.regWrite 0x014 32 w) { s with fault := false, cause := .none, faultInfo := 0 } := by
  have whole : BitVec.ofNat 32 (w.toNat % 2 ^ 32) = w := by
    rw [Nat.mod_eq_of_lt w.isLt, BitVec.ofNat_toNat, BitVec.setWidth_eq]
  rw [State.withFetchWord, whole]
  rfl

/-- Settles O23: with FAULT = 0 the port runs the decoded word, and a placed word is such an offer. -/
theorem stepRunsDecodedInstruction : Obligations.StepRunsDecodedInstruction := by
  refine ⟨fun s w i => step_instr_of_decode_ok, fun s w i hi => ?_⟩
  rw [withFetchWord_eq_offer]
  exact step_instr_of_decode_ok rfl hi

end Machine

end Sys2Proof
end

section
/-! PROOFS. The basic vector instructions (40_vector_basic): the words of instructions as numbers, what any instruction
leaves, and the lanes, bits and bytes of the results of ADD, ORR, MOV and REV32. -/

namespace Sys2Proof

/-! ### Words as numbers -/

theorem toNat_bitsAt_regBits {lo : Nat} (r : VReg) (inside : lo + 5 ≤ 32) :
    (bitsAt lo (regBits r)).toNat = r.val * 2 ^ lo := by
  have number : ((regBits r).setWidth 32).toNat = r.val := by
    simp only [regBits, BitVec.toNat_setWidth, BitVec.toNat_ofNat]
    omega
  have fits : r.val * 2 ^ lo < 2 ^ 32 :=
    calc r.val * 2 ^ lo < 2 ^ 5 * 2 ^ lo := Nat.mul_lt_mul_of_pos_right r.isLt (Nat.two_pow_pos lo)
      _ = 2 ^ (lo + 5) := by rw [← Nat.pow_add, Nat.add_comm]
      _ ≤ 2 ^ 32 := Nat.pow_le_pow_right (by decide) inside
  rw [bitsAt, BitVec.toNat_shiftLeft, number, Nat.shiftLeft_eq, Nat.mod_eq_of_lt fits]

/-- A register number put into a free field adds its place value: no bit is in both, so OR is a sum without carry. -/
theorem toNat_or_bitsAt_regBits {p : Word} {lo : Nat} (r : VReg) (inside : lo + 5 ≤ 32)
    (free : p.extractLsb' lo 5 = 0#5) : (p ||| bitsAt lo (regBits r)).toNat = p.toNat + r.val * 2 ^ lo := by
  have clear : ∀ k < 5, p.getLsbD (lo + k) = false := fun k hk => by
    simpa [hk] using congrArg (BitVec.getLsbD · k) free
  have apart : p &&& bitsAt lo (regBits r) = 0#32 :=
    (BitVec.and_comm _ _).trans (Laws.EncodingRow.field_and_mask lo p r clear)
  rw [← BitVec.add_eq_or_of_and_eq_zero _ _ apart, BitVec.toNat_add_of_and_eq_zero apart,
    toNat_bitsAt_regBits r inside]

theorem toNat_twoRegWord {p : Word} (d n : VReg) (freeD : p.extractLsb' 0 5 = 0#5) (freeN : p.extractLsb' 5 5 = 0#5) :
    (twoRegWord p d n).toNat = p.toNat + n.val * 2 ^ 5 + d.val := by
  have stillFree : (p ||| bitsAt 5 (regBits n)).extractLsb' 0 5 = 0#5 := by
    simp [BitVec.extractLsb'_or, freeD, extractLsb'_bitsAt_apart]
  rw [twoRegWord, toNat_or_bitsAt_regBits d (by decide) stillFree, toNat_or_bitsAt_regBits n (by decide) freeN,
    Nat.pow_zero, Nat.mul_one]

theorem toNat_threeRegWord {p : Word} (d n m : VReg) (freeD : p.extractLsb' 0 5 = 0#5)
    (freeN : p.extractLsb' 5 5 = 0#5) (freeM : p.extractLsb' 16 5 = 0#5) :
    (threeRegWord p d n m).toNat = p.toNat + m.val * 2 ^ 16 + n.val * 2 ^ 5 + d.val := by
  have stillFree (lo : Nat) (low : lo + 5 ≤ 16) (free : p.extractLsb' lo 5 = 0#5) :
      (p ||| bitsAt 16 (regBits m)).extractLsb' lo 5 = 0#5 := by
    simp [BitVec.extractLsb'_or, free, extractLsb'_bitsAt_apart, low]
  rw [threeRegWord, toNat_twoRegWord d n (stillFree 0 (by decide) freeD) (stillFree 5 (by decide) freeN),
    toNat_or_bitsAt_regBits m (by decide) freeM]

theorem toNat_encode_add (d n m : VReg) :
    (encode (.add d n m)).toNat = 0x4EA08400 + m.val * 2 ^ 16 + n.val * 2 ^ 5 + d.val := by
  rw [encode_add]
  exact toNat_threeRegWord d n m (by decide) (by decide) (by decide)

theorem toNat_encode_orr (d n m : VReg) :
    (encode (.orr d n m)).toNat = 0x4EA01C00 + m.val * 2 ^ 16 + n.val * 2 ^ 5 + d.val := by
  rw [encode_orr]
  exact toNat_threeRegWord d n m (by decide) (by decide) (by decide)

theorem toNat_encode_rev32 (d n : VReg) :
    (encode (.rev32 d n)).toNat = 0x6E200800 + n.val * 2 ^ 5 + d.val := by
  rw [encode_rev32]
  exact toNat_twoRegWord d n (by decide) (by decide)

/-! ### Byte reversal -/

/-- The reversed bytes are a little-endian word, and reversing that joins the bytes in their old order. -/
@[simp] theorem bswap32_bswap32 (x : Word) : bswap32 (bswap32 x) = x := by
  calc bswap32 (bswap32 x)
      = x.extractLsb' 24 8 ++ x.extractLsb' 16 8 ++ x.extractLsb' 8 8 ++ x.extractLsb' 0 8 :=
        bswap32_leWord (x.extractLsb' 24 8) (x.extractLsb' 16 8) (x.extractLsb' 8 8) (x.extractLsb' 0 8)
    _ = x.extractLsb' 16 16 ++ x.extractLsb' 8 8 ++ x.extractLsb' 0 8 := by
      rw [BitVec.extractLsb'_append_extractLsb'_eq_extractLsb' (start₂ := 24) (start₁ := 16) (len₁ := 8) rfl]
    _ = x.extractLsb' 8 24 ++ x.extractLsb' 0 8 := by
      rw [BitVec.extractLsb'_append_extractLsb'_eq_extractLsb' (start₂ := 16) (start₁ := 8) (len₁ := 8) rfl]
    _ = x.extractLsb' 0 32 := BitVec.extractLsb'_append_extractLsb'_eq_extractLsb' rfl
    _ = x := BitVec.extractLsb'_eq_self

namespace Machine

/-! ### Results -/

theorem elem_vecAdd (a b : Vec) (e : Fin 4) : (vecAdd a b).elem e = a.elem e + b.elem e := by
  match e with
  | 0 | 1 | 2 | 3 => rfl

/-- The OR lane by lane is the OR of the 128 bits. -/
theorem toBits_vecOr (a b : Vec) : (vecOr a b).toBits = a.toBits ||| b.toBits := by
  simp only [Vec.toBits, vecOr, ← BitVec.or_append]

@[simp] theorem vecOr_self (a : Vec) : vecOr a a = a := by
  simp only [vecOr, BitVec.or_self]

theorem vecRev32_vecRev32 (v : Vec) : vecRev32 (vecRev32 v) = v :=
  Vec.eq_of_elem fun e => by rw [elem_vecRev32, elem_vecRev32, bswap32_bswap32]

/-! ### What an instruction leaves -/

/-- Every instruction answers a state that differs in Rd at most, and Rd holds the result. -/
theorem exec_leaves_result (i : Instr) (s : State) :
    ∃ t, exec i s = .next t ∧ t = s.writeV i.rd (t.readV i.rd) ∧ t.readV i.rd = i.result s.readV := by
  have value := readV_rd_of_exec (exec_eq_result i s)
  exact ⟨_, exec_eq_result i s, by rw [value], value⟩

/-- Writing to a register what it holds changes nothing. -/
@[simp] theorem writeV_readV (s : State) (r : VReg) : s.writeV r (s.readV r) = s := by
  rw [State.writeV, State.readV, Vector.set_getElem_self]

theorem exec_mov (d n : VReg) (s : State) : exec (.mov d n) s = .next (s.writeV d (s.readV n)) := by
  have result : (Instr.mov d n).result s.readV = s.readV n := vecOr_self (s.readV n)
  rw [exec_eq_result, result]
  rfl

/-- Settles O8: the word has the register numbers in free fields, and Rd holds the lanewise sum. -/
theorem addLanes : Obligations.AddLanes := by
  intro d n m s
  obtain ⟨t, run, frame, value⟩ := exec_leaves_result (.add d n m) s
  exact ⟨toNat_encode_add d n m, t, run, frame,
    fun e => (congrArg (Vec.elem · e) value).trans (elem_vecAdd (s.readV n) (s.readV m) e)⟩

/-- Settles O9: the word has the register numbers in free fields, and Rd holds the OR of the 128 bits. -/
theorem orrBits : Obligations.OrrBits := by
  intro d n m s
  obtain ⟨t, run, frame, value⟩ := exec_leaves_result (.orr d n m) s
  exact ⟨toNat_encode_orr d n m, t, run, frame,
    (congrArg Vec.toBits value).trans (toBits_vecOr (s.readV n) (s.readV m))⟩

/-- Settles O10: MOV is ORR of a register with itself, and copying a register to itself writes back what it holds. -/
theorem movCopies : Obligations.MovCopies := by
  intro d n s
  refine ⟨toNat_encode_orr d n n, exec_mov d n s, ?_⟩
  rw [exec_mov, writeV_readV]

/-- Settles O11: each lane of Rd is byte-reversed, and byte reversal is its own inverse lane by lane. -/
theorem rev32Bytes : Obligations.Rev32Bytes := by
  refine ⟨fun d n s => ?_, vecRev32_vecRev32⟩
  obtain ⟨t, run, frame, value⟩ := exec_leaves_result (.rev32 d n) s
  refine ⟨toNat_encode_rev32 d n, t, run, frame, fun e k => ?_⟩
  have lane : (t.readV d).elem e = bswap32 ((s.readV n).elem e) :=
    (congrArg (Vec.elem · e) value).trans (elem_vecRev32 (s.readV n) e)
  have source : 24 - 8 * k.val = 8 * (3 - k.val) := by omega
  rw [lane, extractLsb'_bswap32, source]

end Machine

end Sys2Proof
end

section
/-! PROOFS. The message schedule (41_sha256_schedule): the mixing functions by Lean's rotation and bit by bit, the lanes of
SU0 and SU1, and the four words the pair computes. -/

namespace Sys2Proof

theorem toNat_encode_sha256su0 (d n : VReg) :
    (encode (.sha256su0 d n)).toNat = 0x5E282800 + n.val * 2 ^ 5 + d.val := by
  rw [encode_sha256su0]
  exact toNat_twoRegWord d n (by decide) (by decide)

theorem toNat_encode_sha256su1 (d n m : VReg) :
    (encode (.sha256su1 d n m)).toNat = 0x5E006000 + m.val * 2 ^ 16 + n.val * 2 ^ 5 + d.val := by
  rw [encode_sha256su1]
  exact toNat_threeRegWord d n m (by decide) (by decide) (by decide)

namespace Machine

/-! ### The mixing functions -/

theorem sigma0_eq_rotateRight (x : Word) : sigma0 x = x.rotateRight 7 ^^^ x.rotateRight 18 ^^^ x >>> 3 := by
  rw [sigma0, ror_eq_rotateRight x (by decide), ror_eq_rotateRight x (by decide), shr]

theorem sigma1_eq_rotateRight (x : Word) : sigma1 x = x.rotateRight 17 ^^^ x.rotateRight 19 ^^^ x >>> 10 := by
  rw [sigma1, ror_eq_rotateRight x (by decide), ror_eq_rotateRight x (by decide), shr]

theorem bigSigma0_eq_rotateRight (x : Word) :
    bigSigma0 x = x.rotateRight 2 ^^^ x.rotateRight 13 ^^^ x.rotateRight 22 := by
  rw [bigSigma0, ror_eq_rotateRight x (by decide), ror_eq_rotateRight x (by decide), ror_eq_rotateRight x (by decide)]

theorem bigSigma1_eq_rotateRight (x : Word) :
    bigSigma1 x = x.rotateRight 6 ^^^ x.rotateRight 11 ^^^ x.rotateRight 25 := by
  rw [bigSigma1, ror_eq_rotateRight x (by decide), ror_eq_rotateRight x (by decide), ror_eq_rotateRight x (by decide)]

/-- Ch chooses: where x has a 1 only the first term can have one, elsewhere only the second. -/
theorem getLsbD_ch (x y z : Word) {k : Nat} (hk : k < 32) :
    (ch x y z).getLsbD k = if x.getLsbD k then y.getLsbD k else z.getLsbD k := by
  rw [ch, BitVec.getLsbD_xor, BitVec.getLsbD_and, BitVec.getLsbD_and, BitVec.getLsbD_not]
  cases x.getLsbD k <;> simp [hk]

/-- Maj is the majority: the XOR of the three ANDs has a 1 exactly where two of the words have one. -/
theorem getLsbD_maj (x y z : Word) (k : Nat) :
    (maj x y z).getLsbD k = Bool.atLeastTwo (x.getLsbD k) (y.getLsbD k) (z.getLsbD k) := by
  have majority : ∀ a b c : Bool, (((a && b) ^^ (a && c)) ^^ (b && c)) = Bool.atLeastTwo a b c := by decide
  rw [maj, BitVec.getLsbD_xor, BitVec.getLsbD_xor, BitVec.getLsbD_and, BitVec.getLsbD_and, BitVec.getLsbD_and, majority]

/-- Settles O16: the model's rotation is Lean's, and Ch and Maj are read bit by bit. -/
theorem mixingFunctions : Obligations.MixingFunctions := fun x y z =>
  ⟨sigma0_eq_rotateRight x, sigma1_eq_rotateRight x, bigSigma0_eq_rotateRight x, bigSigma1_eq_rotateRight x,
    rfl, fun _ => getLsbD_ch x y z, rfl, fun k _ => getLsbD_maj x y z k⟩

/-! ### SU0 and SU1 -/

theorem su0_lanes (a b : Vec) :
    (su0 a b).elem 0 = a.elem 0 + sigma0 (a.elem 1) ∧ (su0 a b).elem 1 = a.elem 1 + sigma0 (a.elem 2) ∧
    (su0 a b).elem 2 = a.elem 2 + sigma0 (a.elem 3) ∧ (su0 a b).elem 3 = a.elem 3 + sigma0 (b.elem 0) :=
  ⟨rfl, rfl, rfl, rfl⟩

/-- Lanes 2 and 3 by the new lanes 0 and 1. -/
theorem su1_lanes (p c f : Vec) :
    (su1 p c f).elem 0 = sigma1 (f.elem 2) + p.elem 0 + c.elem 1 ∧
    (su1 p c f).elem 1 = sigma1 (f.elem 3) + p.elem 1 + c.elem 2 ∧
    (su1 p c f).elem 2 = sigma1 ((su1 p c f).elem 0) + p.elem 2 + c.elem 3 ∧
    (su1 p c f).elem 3 = sigma1 ((su1 p c f).elem 1) + p.elem 3 + f.elem 0 :=
  ⟨rfl, rfl, rfl, rfl⟩

/-- Settles O12: the word has the register numbers in free fields, and Rd holds SU0 of the old registers. -/
theorem sha256su0Lanes : Obligations.Sha256su0Lanes := by
  intro d n s
  obtain ⟨t, run, frame, value⟩ := exec_leaves_result (.sha256su0 d n) s
  have held : t.readV d = su0 (s.readV d) (s.readV n) := value
  refine ⟨toNat_encode_sha256su0 d n, t, run, frame, held, ?_⟩
  rw [held]
  exact su0_lanes (s.readV d) (s.readV n)

/-- Settles O13: the word has the register numbers in free fields, and Rd holds SU1 of the old registers. -/
theorem sha256su1Lanes : Obligations.Sha256su1Lanes := by
  intro d n m s
  obtain ⟨t, run, frame, value⟩ := exec_leaves_result (.sha256su1 d n m) s
  have held : t.readV d = su1 (s.readV d) (s.readV n) (s.readV m) := value
  refine ⟨toNat_encode_sha256su1 d n m, t, run, frame, held, ?_⟩
  rw [held]
  exact su1_lanes (s.readV d) (s.readV n) (s.readV m)

/-! ### Four words of the schedule -/

/-- A sequence of words that follows the schedule's recurrence (41_sha256_schedule R156). -/
def FollowsSchedule (w : Nat → Word) : Prop :=
  ∀ t, 16 ≤ t → w t = sigma1 (w (t - 2)) + w (t - 7) + sigma0 (w (t - 15)) + w (t - 16)

/-- The vector of four words of a sequence from i on. -/
def vecFrom (w : Nat → Word) (i : Nat) : Vec := ⟨w i, w (i + 1), w (i + 2), w (i + 3)⟩

/-- The recurrence with its terms in the order SU1 of SU0 adds them. -/
theorem FollowsSchedule.next {w : Nat → Word} (follows : FollowsSchedule w) (i : Nat) :
    sigma1 (w (i + 14)) + (w i + sigma0 (w (i + 1))) + w (i + 9) = w (i + 16) :=
  calc sigma1 (w (i + 14)) + (w i + sigma0 (w (i + 1))) + w (i + 9)
      = sigma1 (w (i + 14)) + w (i + 9) + sigma0 (w (i + 1)) + w i := by ac_rfl
    _ = w (i + 16) := (follows (i + 16) (Nat.le_add_left 16 i)).symm

/-- Lane e is the recurrence's next word after i + e; the words lanes 2 and 3 need are lanes 0 and 1. -/
theorem su1_su0_vecFrom {w : Nat → Word} (follows : FollowsSchedule w) (i : Nat) :
    su1 (su0 (vecFrom w i) (vecFrom w (i + 4))) (vecFrom w (i + 8)) (vecFrom w (i + 12)) = vecFrom w (i + 16) := by
  obtain ⟨lane0, lane1, lane2, lane3⟩ :=
    su1_lanes (su0 (vecFrom w i) (vecFrom w (i + 4))) (vecFrom w (i + 8)) (vecFrom w (i + 12))
  have word16 := lane0.trans (follows.next i)
  have word17 := lane1.trans (follows.next (i + 1))
  rw [word16] at lane2
  rw [word17] at lane3
  refine Vec.eq_of_elem fun e => ?_
  match e with
  | 0 => exact word16
  | 1 => exact word17
  | 2 => exact lane2.trans (follows.next (i + 2))
  | 3 => exact lane3.trans (follows.next (i + 3))

/-- Settles O17, lane by lane. -/
theorem scheduleExpansion : Obligations.ScheduleExpansion := fun _ i follows => su1_su0_vecFrom follows i

end Machine

end Sys2Proof
end

section
/-! PROOFS. The hash update (42_sha256_hash): HashQuad as four standard rounds, the results of SHA256H and SHA256H2, and the
quad-round step they make with a snapshot (70_reset_and_hazards R310, R311). -/

namespace Sys2Proof

theorem toNat_encode_sha256h (d n m : VReg) :
    (encode (.sha256h d n m)).toNat = 0x5E004000 + m.val * 2 ^ 16 + n.val * 2 ^ 5 + d.val := by
  rw [encode_sha256h]
  exact toNat_threeRegWord d n m (by decide) (by decide) (by decide)

theorem toNat_encode_sha256h2 (d n m : VReg) :
    (encode (.sha256h2 d n m)).toNat = 0x5E005000 + m.val * 2 ^ 16 + n.val * 2 ^ 5 + d.val := by
  rw [encode_sha256h2]
  exact toNat_threeRegWord d n m (by decide) (by decide) (by decide)

namespace Machine

/-! ### The two instructions -/

/-- Settles O14: the word has the register numbers in free fields, and Rd holds the state0 half. -/
theorem sha256hResult : Obligations.Sha256hResult := fun d n m s =>
  ⟨toNat_encode_sha256h d n m, exec_leaves_result (.sha256h d n m) s⟩

/-- Settles O15: the word has the register numbers in free fields, and Rd holds the state1 half. -/
theorem sha256h2Result : Obligations.Sha256h2Result := fun d n m s =>
  ⟨toNat_encode_sha256h2 d n m, exec_leaves_result (.sha256h2 d n m) s⟩

/-! ### Four rounds -/

/-- The hash state after four standard rounds with the lanes of w as inputs, lane 0 first. -/
def fourScalarRounds (h : HashState) (w : Vec) : HashState :=
  scalarRound (scalarRound (scalarRound (scalarRound h w.l0) w.l1) w.l2) w.l3

/-- One iteration of HashQuad is one standard round on the two halves: the rotation of Y:X moves each word to the next place,
and the two new words are the round's sums, associated or ordered differently. -/
theorem hashIter_halves (h : HashState) (w : Word) :
    hashIter (state0Of h, state1Of h) w = (state0Of (scalarRound h w), state1Of (scalarRound h w)) := by
  refine Prod.ext (Vec.eq_of_elem fun e => ?_) (Vec.eq_of_elem fun e => ?_)
  · match e with
    | 0 => exact BitVec.add_assoc _ _ _
    | 1 | 2 | 3 => rfl
  · match e with
    | 0 => exact BitVec.add_comm _ _
    | 1 | 2 | 3 => rfl

/-- HashQuad chooses a half of the state after four standard rounds. -/
theorem hashQuad_halves (h : HashState) (w : Vec) (part1 : Bool) :
    hashQuad (state0Of h) (state1Of h) w part1 =
      if part1 then state0Of (fourScalarRounds h w) else state1Of (fourScalarRounds h w) := by
  simp only [hashQuad, hashIter_halves, fourScalarRounds]

/-- Four states in a row, each a standard round after the one before, end in the state the four rounds give. -/
theorem fourScalarRounds_of_rounds {H : Nat → HashState} {w : Nat → Word}
    (round : ∀ k < 4, scalarRound (H k) (w k) = H (k + 1)) :
    fourScalarRounds (H 0) ⟨w 0, w 1, w 2, w 3⟩ = H 4 := by
  rw [fourScalarRounds, round 0 (by decide), round 1 (by decide), round 2 (by decide), round 3 (by decide)]

/-- The hash state of the k-th of eight sequences of working words. -/
def workingWords (a b c d e f g h : Nat → Word) (k : Nat) : HashState := #v[a k, b k, c k, d k, e k, f k, g k, h k]

/-- Settles O18: the eight words go through four standard rounds, and HashQuad does these on the halves. -/
theorem fourRounds : Obligations.FourRounds := by
  intro a b c d e f g h w follows
  have round : ∀ k < 4,
      scalarRound (workingWords a b c d e f g h k) (w k) = workingWords a b c d e f g h (k + 1) := fun k hk => by
    obtain ⟨ha, hb, hc, hd, he, hf, hg, hh⟩ := follows k hk
    simp only [workingWords, ha, hb, hc, hd, he, hf, hg, hh]
    rfl
  have halves := hashQuad_halves (workingWords a b c d e f g h 0) ⟨w 0, w 1, w 2, w 3⟩
  rw [fourScalarRounds_of_rounds round] at halves
  exact ⟨halves true, halves false⟩

/-! ### The step with a snapshot -/

/-- A list whose first instruction answers a next state goes on from there. -/
theorem execAll_cons {i : Instr} {is : List Instr} {s t : State} (h : exec i s = .next t) :
    execAll (i :: is) s = execAll is t := by
  simp only [execAll, h]

theorem exec_sha256h (d n m : VReg) (s : State) :
    exec (.sha256h d n m) s = .next (s.writeV d (hashQuad (s.readV d) (s.readV n) (s.readV m) true)) :=
  exec_eq_result (.sha256h d n m) s

theorem exec_sha256h2 (d n m : VReg) (s : State) :
    exec (.sha256h2 d n m) s = .next (s.writeV d (hashQuad (s.readV n) (s.readV d) (s.readV m) false)) :=
  exec_eq_result (.sha256h2 d n m) s

/-- The state the three instructions leave: SHA256H2 reads the old state0 from the snapshot, since SHA256H has overwritten
it in p (42_sha256_hash R178). -/
theorem execAll_snapshotStep {p q u k : VReg} (s : State) (hpq : p ≠ q) (hup : u ≠ p) (huq : u ≠ q) (hkp : k ≠ p)
    (hku : k ≠ u) :
    execAll [.mov u p, .sha256h p q k, .sha256h2 q u k] s =
      .next (((s.writeV u (s.readV p)).writeV p (hashQuad (s.readV p) (s.readV q) (s.readV k) true)).writeV q
        (hashQuad (s.readV p) (s.readV q) (s.readV k) false)) := by
  rw [execAll_cons (exec_mov u p s), execAll_cons (exec_sha256h p q k _), execAll_cons (exec_sha256h2 q u k _), execAll]
  simp only [readV_writeV, hpq.symm, hup, hup.symm, huq.symm, hkp, hku, if_true, if_false]

/-- Settles O19: each register is read through the three writes of the step. -/
theorem snapshotStep : Obligations.SnapshotStep := by
  intro p q u k s hpq hup huq hkp _ hku
  refine ⟨_, execAll_snapshotStep s hpq hup huq hkp hku, ?_, readV_writeV_same _ q _, ?_, fun r hrp hrq hru => ?_⟩
  · rw [readV_writeV_ne _ _ hpq, readV_writeV_same]
  · rw [readV_writeV_ne _ _ huq, readV_writeV_ne _ _ hup, readV_writeV_same]
  · rw [readV_writeV_ne _ _ hrq, readV_writeV_ne _ _ hrp, readV_writeV_ne _ _ hru]

end Machine

end Sys2Proof
end

section
/-! PROOFS. The constant tables (43_compression_engine R200, R201): the first 64 primes, and each constant held to the root
of its prime by integer inequalities. -/

namespace Sys2Proof.Machine

/-! ### The primes in order -/

/-- The k-th of the numbers below n that have p, in order, is the k-th of all that have p. -/
theorem nth_eq_of_filter_range {p : Nat → Prop} [DecidablePred p] {n k a : Nat}
    (h : ((List.range n).filter p)[k]? = some a) : Nat.nth p k = a := by
  induction n with
  | zero => simp at h
  | succ n ih =>
    have below : ((List.range n).filter p).length = Nat.count p n := List.countP_eq_length_filter.symm
    rw [List.range_succ, List.filter_append, List.getElem?_append] at h
    split at h
    · exact ih h
    · by_cases hn : p n
      · obtain ⟨hk, rfl⟩ : k - Nat.count p n = 0 ∧ n = a := by simpa [hn, below, List.getElem?_singleton] using h
        obtain rfl : k = Nat.count p n := by omega
        exact Nat.nth_count hn
      · simp [hn] at h

/-- The first 64 primes, which R200 and R201 take the roots of. -/
def firstPrimes : Vector Nat 64 :=
  #v[2, 3, 5, 7, 11, 13, 17, 19, 23, 29, 31, 37, 41, 43, 47, 53, 59, 61, 67, 71, 73, 79, 83, 89, 97, 101, 103, 107, 109,
     113, 127, 131, 137, 139, 149, 151, 157, 163, 167, 173, 179, 181, 191, 193, 197, 199, 211, 223, 227, 229, 233, 239,
     241, 251, 257, 263, 269, 271, 277, 281, 283, 293, 307, 311]

/-- A number below 18² has its root below 18, so the trial divisors are these. -/
theorem prime_iff_of_lt {n : Nat} (h : n < 324) : n.Prime ↔ 2 ≤ n ∧ ∀ m < 18, 2 ≤ m → m * m ≤ n → ¬ m ∣ n := by
  rw [Nat.prime_def_le_sqrt]
  refine and_congr_right fun _ =>
    ⟨fun free m _ two square => free m two (Nat.le_sqrt.2 square), fun free m two root => ?_⟩
  have square : m * m ≤ n := Nat.le_sqrt.1 root
  exact free m (by nlinarith) two square

/-- By trial division, which `decide` can run. -/
theorem filter_prime_range : (List.range 312).filter Nat.Prime = firstPrimes.toList := by
  have trial : (List.range 312).filter Nat.Prime =
      (List.range 312).filter fun n => 2 ≤ n ∧ ∀ m < 18, 2 ≤ m → m * m ≤ n → ¬ m ∣ n :=
    List.filter_congr fun n hn => decide_eq_decide.2 (prime_iff_of_lt (by have := List.mem_range.1 hn; omega))
  rw [trial]
  decide

theorem nth_prime (t : Fin 64) : Nat.nth Nat.Prime t.val = firstPrimes[t.val] :=
  nth_eq_of_filter_range (n := 312) (by simp [filter_prime_range])

/-! ### The roots -/

theorem elem_kGroup (g : Fin 16) (e : Fin 4) : (kGroup g).elem e = kConst ⟨4 * g.val + e.val, by omega⟩ := by
  have group : (4 * g.val + e.val) / 4 = g.val := by omega
  have lane : (4 * g.val + e.val) % 4 = e.val := by omega
  simp only [kConst, group, lane]

/-- The cube roots of the first 64 primes are below 7. -/
theorem kConst_cubeRoot : ∀ t : Fin 64, ∃ n < 7,
    (n * 2 ^ 32 + (kConst t).toNat) ^ 3 ≤ firstPrimes[t.val] * 2 ^ 96 ∧
    firstPrimes[t.val] * 2 ^ 96 < (n * 2 ^ 32 + (kConst t).toNat + 1) ^ 3 := by
  decide

/-- The square roots of the first 8 primes are below 5. -/
theorem h0_squareRoot : ∀ i : Fin 8, ∃ n < 5,
    (n * 2 ^ 32 + (h0[i.val]).toNat) ^ 2 ≤ firstPrimes[i.val] * 2 ^ 64 ∧
    firstPrimes[i.val] * 2 ^ 64 < (n * 2 ^ 32 + (h0[i.val]).toNat + 1) ^ 2 := by
  decide

/-- Settles O44: the primes are the listed ones, and each constant is compared with its root in whole numbers. -/
theorem constantsAreRoots : Obligations.ConstantsAreRoots := by
  refine ⟨fun t => ?_, elem_kGroup, fun i => ?_⟩
  · obtain ⟨n, -, root⟩ := kConst_cubeRoot t
    rw [nth_prime t]
    exact ⟨n, root⟩
  · obtain ⟨n, -, root⟩ := h0_squareRoot i
    rw [nth_prime ⟨i.val, by omega⟩]
    exact ⟨n, root⟩

end Sys2Proof.Machine
end

section
/-! PROOFS. CompressBlock against its scalar form (43_compression_engine R204, R210): the schedule as one sequence of words,
the four vectors of a block as a window that moves over it, and the two halves as the state after four rounds a step. -/

namespace Sys2Proof.Machine

/-! ### The schedule as a sequence -/

/-- The words of a block before its schedule is extended (43_compression_engine R210). -/
def blockWords (b : Block) : List Word := (List.finRange 16).map (blockWord b)

@[simp] theorem length_blockWords (b : Block) : (blockWords b).length = 16 := by simp [blockWords]

theorem extendSchedule_succ (n : Nat) (ws : List Word) :
    extendSchedule (n + 1) ws = extendSchedule n ws ++ [nextScheduleWord (extendSchedule n ws)] := by
  induction n generalizing ws with
  | zero => rfl
  | succ n ih => exact ih (ws ++ [nextScheduleWord ws])

@[simp] theorem length_extendSchedule (n : Nat) (ws : List Word) : (extendSchedule n ws).length = ws.length + n := by
  induction n with
  | zero => rfl
  | succ n ih => rw [extendSchedule_succ, List.length_append, ih]; rfl

/-- Extending further leaves the words there are. -/
theorem getD_extendSchedule_add {n t : Nat} {ws : List Word} (k : Nat) (h : t < ws.length + n) :
    (extendSchedule (n + k) ws).getD t 0 = (extendSchedule n ws).getD t 0 := by
  induction k with
  | zero => rfl
  | succ k ih =>
    rw [← Nat.add_assoc, extendSchedule_succ, List.getD_append _ _ _ _ (by rw [length_extendSchedule]; omega), ih]

/-- Word t of the schedule of a block, carried on without end by the recurrence. -/
def scheduleWord (b : Block) (t : Nat) : Word := (extendSchedule t (blockWords b)).getD t 0

/-- Any extension that reaches word t holds it. -/
theorem getD_extendSchedule (b : Block) {n t : Nat} (h : t < 16 + n) :
    (extendSchedule n (blockWords b)).getD t 0 = scheduleWord b t := by
  rw [scheduleWord]
  rcases Nat.le_total n t with short | long
  · obtain ⟨k, rfl⟩ := Nat.exists_eq_add_of_le short
    exact (getD_extendSchedule_add k (by rwa [length_blockWords])).symm
  · obtain ⟨k, rfl⟩ := Nat.exists_eq_add_of_le long
    exact getD_extendSchedule_add k (by simp)

theorem getD_messageSchedule (b : Block) {t : Nat} (h : t < 64) : (messageSchedule b).getD t 0 = scheduleWord b t :=
  getD_extendSchedule b (n := 48) h

theorem scheduleWord_block (b : Block) (t : Fin 16) : scheduleWord b t.val = blockWord b t := by
  rw [← getD_extendSchedule b (n := 0) t.isLt]
  simp [extendSchedule, blockWords]

theorem scheduleWord_follows (b : Block) : FollowsSchedule (scheduleWord b) := by
  intro t ht
  obtain ⟨n, rfl⟩ := Nat.exists_eq_add_of_le ht
  have length : (extendSchedule n (blockWords b)).length = 16 + n := by simp
  have last : scheduleWord b (16 + n) = nextScheduleWord (extendSchedule n (blockWords b)) := by
    rw [← getD_extendSchedule b (n := n + 1) (by omega), extendSchedule_succ, List.getD_append_right _ _ _ _ length.le,
      length]
    simp
  have word (k : Nat) (hk : 0 < k) :
      (extendSchedule n (blockWords b)).getD (16 + n - k) 0 = scheduleWord b (16 + n - k) :=
    getD_extendSchedule b (by omega)
  simp only [last, nextScheduleWord, length]
  rw [word 2 (by decide), word 7 (by decide), word 15 (by decide), word 16 (by decide)]

/-! ### The steps one by one -/

/-- The first i + 1 of n numbers folded are the first i and then the next. -/
theorem foldl_take_finRange_succ {α : Type} {n i : Nat} (h : i < n) (f : α → Fin n → α) (x : α) :
    ((List.finRange n).take (i + 1)).foldl f x = f (((List.finRange n).take i).foldl f x) ⟨i, h⟩ := by
  have last : (List.finRange n).take (i + 1) = (List.finRange n).take i ++ [⟨i, h⟩] := by
    simp [List.take_add_one, h]
  rw [last, List.foldl_append]
  rfl

/-- The scratch before quad-round step i. -/
def scratchBefore (i : Nat) (x : Scratch) : Scratch := ((List.finRange 16).take i).foldl quadRound x

@[simp] theorem scratchBefore_zero (x : Scratch) : scratchBefore 0 x = x := rfl

theorem scratchBefore_succ {i : Nat} (h : i < 16) (x : Scratch) :
    scratchBefore (i + 1) x = quadRound (scratchBefore i x) ⟨i, h⟩ := foldl_take_finRange_succ h quadRound x

theorem quadRounds_eq_scratchBefore (x : Scratch) : quadRounds x = scratchBefore 16 x := by
  rw [quadRounds, scratchBefore, List.take_of_length_le (by simp)]

/-! ### The message vectors -/

/-- The four vectors hold the sixteen words from word 4i on, each vector in its cyclic place (43_compression_engine R204). -/
def HoldsWindow (w : Nat → Word) (i : Nat) (msg : Vector Vec 4) : Prop :=
  ∀ k < 4, msg[(i + k) % 4]'(Nat.mod_lt _ (by decide)) = vecFrom w (4 * i + 4 * k)

theorem holdsWindow_blockMsg (b : Block) : HoldsWindow (scheduleWord b) 0 (blockMsg b) := by
  intro k hk
  have place : (blockMsg b)[(0 + k) % 4]'(Nat.mod_lt _ (by decide)) = blockVec b ⟨k, hk⟩ := by
    simp only [Nat.zero_add, Nat.mod_eq_of_lt hk]
    exact getElem_blockMsg b ⟨k, hk⟩
  rw [place]
  simp only [blockVec, ← scheduleWord_block]
  simp [vecFrom]

/-- A step that expands replaces the vector it consumes with the sixteenth word after it and the next three. -/
theorem HoldsWindow.expand {w : Nat → Word} (follows : FollowsSchedule w) {i : Fin 16} {msg : Vector Vec 4}
    (h : HoldsWindow w i.val msg) (early : i.val < 12) : HoldsWindow w (i.val + 1) (expand i msg) := by
  have fresh : su1 (su0 msg[i.val % 4] msg[(i.val % 4 + 1) % 4]) msg[(i.val % 4 + 2) % 4] msg[(i.val % 4 + 3) % 4] =
      vecFrom w (4 * i.val + 16) := by
    have place0 : msg[i.val % 4] = vecFrom w (4 * i.val) := h 0 (by decide)
    have place1 := h 1 (by decide)
    have place2 := h 2 (by decide)
    have place3 := h 3 (by decide)
    simp only [Nat.mod_add_mod, place0, place1, place2, place3]
    exact su1_su0_vecFrom follows (4 * i.val)
  intro k hk
  simp only [Machine.expand, if_pos early, fresh, Vector.getElem_set]
  split
  · next same =>
    obtain rfl : k = 3 := by omega
    rfl
  · next other =>
    have place : (i.val + 1 + k) % 4 = (i.val + (k + 1)) % 4 := by rw [Nat.add_assoc, Nat.add_comm 1 k]
    have first : 4 * (i.val + 1) + 4 * k = 4 * i.val + 4 * (k + 1) := by omega
    simp only [place, first]
    exact h (k + 1) (by omega)

/-- Up to step 12 the vectors are the window of sixteen words that step starts with. -/
theorem holdsWindow_scratchBefore (b : Block) (x y : Vec) {i : Nat} (h : i ≤ 12) :
    HoldsWindow (scheduleWord b) i (scratchBefore i ⟨blockMsg b, x, y⟩).msg := by
  induction i with
  | zero => exact holdsWindow_blockMsg b
  | succ i ih =>
    rw [scratchBefore_succ (by omega)]
    exact HoldsWindow.expand (i := ⟨i, by omega⟩) (scheduleWord_follows b) (ih (by omega)) (by dsimp only; omega)

/-- From step 12 on the vectors stay. -/
theorem msg_scratchBefore_late (x : Scratch) {k : Nat} (h : 12 + k ≤ 16) :
    (scratchBefore (12 + k) x).msg = (scratchBefore 12 x).msg := by
  induction k with
  | zero => rfl
  | succ k ih =>
    rw [← Nat.add_assoc, scratchBefore_succ (by omega)]
    simpa [quadRound, expand] using ih (by omega)

/-- Before each of the sixteen steps the vector it consumes holds its four words. -/
theorem consumed_scratchBefore (b : Block) (x y : Vec) {i : Nat} (h : i < 16) :
    (scratchBefore i ⟨blockMsg b, x, y⟩).msg[i % 4]'(Nat.mod_lt _ (by decide)) = vecFrom (scheduleWord b) (4 * i) := by
  rcases Nat.le_total i 12 with early | late
  · exact holdsWindow_scratchBefore b x y early 0 (by decide)
  · obtain ⟨k, rfl⟩ := Nat.exists_eq_add_of_le late
    have window := holdsWindow_scratchBefore b x y (Nat.le_refl 12) k (by omega)
    simp only [msg_scratchBefore_late _ (Nat.le_of_lt h), window]
    congr 1
    omega

/-- Settles O45: the words are those of the endless sequence, of which the vectors are a window until step 12. -/
theorem messageVectorsHoldSchedule : Obligations.MessageVectorsHoldSchedule := by
  intro b x y i hi
  have words {t : Nat} (ht : t + 4 ≤ 64) :
      vecFrom (scheduleWord b) t = vecFrom (fun t => (messageSchedule b).getD t 0) t := by
    simp only [vecFrom]
    rw [getD_messageSchedule b (by omega), getD_messageSchedule b (by omega), getD_messageSchedule b (by omega),
      getD_messageSchedule b (by omega)]
  refine ⟨(consumed_scratchBefore b x y hi).trans (words (by omega)), fun early k hk => ?_⟩
  exact (holdsWindow_scratchBefore b x y early k hk).trans (words (by omega))

/-! ### The rounds -/

/-- The hash state before round t of the scalar form (43_compression_engine R210). -/
def roundsBefore (b : Block) (h : HashState) (t : Nat) : HashState :=
  ((List.finRange 64).take t).foldl (fun h t => scalarRound h (scheduleWord b t.val + kConst t)) h

@[simp] theorem roundsBefore_zero (b : Block) (h : HashState) : roundsBefore b h 0 = h := rfl

theorem roundsBefore_succ (b : Block) (h : HashState) {t : Nat} (ht : t < 64) :
    roundsBefore b h (t + 1) = scalarRound (roundsBefore b h t) (scheduleWord b t + kConst ⟨t, ht⟩) :=
  foldl_take_finRange_succ ht _ h

theorem scalarCompress_eq_roundsBefore (h : HashState) (b : Block) :
    scalarCompress h b = Vector.zipWith (· + ·) (roundsBefore b h 64) h := by
  have words : (fun (h : HashState) (t : Fin 64) => scalarRound h ((messageSchedule b).getD t.val 0 + kConst t)) =
      fun h t => scalarRound h (scheduleWord b t.val + kConst t) := by
    funext h t
    rw [getD_messageSchedule b t.isLt]
  rw [scalarCompress, words, roundsBefore, List.take_of_length_le (by simp)]

/-- Four rounds from round 4i on take the lanes of the words from 4i on with group i of K added. -/
theorem roundsBefore_add_four (b : Block) (h : HashState) (i : Fin 16) :
    roundsBefore b h (4 * (i.val + 1)) =
      fourScalarRounds (roundsBefore b h (4 * i.val)) (vecAdd (vecFrom (scheduleWord b) (4 * i.val)) (kGroup i)) := by
  have lane0 : (kGroup i).l0 = kConst ⟨4 * i.val, by omega⟩ := elem_kGroup i 0
  have lane1 : (kGroup i).l1 = kConst ⟨4 * i.val + 1, by omega⟩ := elem_kGroup i 1
  have lane2 : (kGroup i).l2 = kConst ⟨4 * i.val + 2, by omega⟩ := elem_kGroup i 2
  have lane3 : (kGroup i).l3 = kConst ⟨4 * i.val + 3, by omega⟩ := elem_kGroup i 3
  simp only [fourScalarRounds, vecAdd, vecFrom, lane0, lane1, lane2, lane3]
  rw [Nat.mul_add, roundsBefore_succ b h (t := 4 * i.val + 3) (by omega),
    roundsBefore_succ b h (t := 4 * i.val + 2) (by omega), roundsBefore_succ b h (t := 4 * i.val + 1) (by omega),
    roundsBefore_succ b h (t := 4 * i.val) (by omega)]

/-- The two halves before quad-round step i are those of the hash state before round 4i. -/
theorem halves_scratchBefore (b : Block) (h : HashState) {i : Nat} (hi : i ≤ 16) :
    (scratchBefore i ⟨blockMsg b, state0Of h, state1Of h⟩).state0 = state0Of (roundsBefore b h (4 * i)) ∧
    (scratchBefore i ⟨blockMsg b, state0Of h, state1Of h⟩).state1 = state1Of (roundsBefore b h (4 * i)) := by
  induction i with
  | zero => exact ⟨rfl, rfl⟩
  | succ i ih =>
    obtain ⟨half0, half1⟩ := ih (by omega)
    rw [scratchBefore_succ (by omega), roundsBefore_add_four b h ⟨i, by omega⟩]
    simp only [quadRound, consumed_scratchBefore b (state0Of h) (state1Of h) (show i < 16 by omega), half0, half1,
      hashQuad_halves]
    exact ⟨rfl, rfl⟩

/-- Adding the halves of two hash states lane by lane adds the states word by word. -/
theorem ofHalves_vecAdd (r h : HashState) :
    ofHalves (vecAdd (state0Of r) (state0Of h)) (vecAdd (state1Of r) (state1Of h)) = Vector.zipWith (· + ·) r h := by
  ext k hk
  rw [Vector.getElem_zipWith]
  match k with
  | 0 | 1 | 2 | 3 | 4 | 5 | 6 | 7 => rfl

/-- Settles O46: after sixteen steps the halves are those of the state after 64 rounds, and the feed-forward is word by
word. -/
theorem scalarEquivalence : Obligations.ScalarEquivalence := by
  intro h b
  obtain ⟨half0, half1⟩ := halves_scratchBefore b h (Nat.le_refl 16)
  rw [compressBlock, quadRounds_eq_scratchBefore, half0, half1, ofHalves_vecAdd, scalarCompress_eq_roundsBefore]

end Sys2Proof.Machine
end

section
/-! PROOFS. The block step (43_compression_engine R207), and that the engine and the instructions use disjoint state
(43_compression_engine R211). -/

namespace Sys2Proof.Machine

/-! ### The engine's turn by its three cases -/

theorem engineTurn_of_disabled (m : Nat) {s : State} (h : s.busy = false ∨ s.fault = true) : engineTurn m s = s := by
  rcases engineTurn_cases m s with ⟨-, rest⟩ | ⟨hb, hf, -⟩ | ⟨hb, hf, -⟩
  · exact rest
  · simp [hb, hf] at h
  · simp [hb, hf] at h

section
variable {m : Nat} {s : State} (hb : s.busy = true) (hf : s.fault = false)
include hb hf

theorem engineTurn_of_inside (inside : s.curAddr + 64 ≤ m) :
    engineTurn m s =
      { s with hash := compressBlock s.hash (Memory.readBlock s.mem s.curAddr),
               curAddr := s.curAddr + 64, remain := s.remain - 1, busy := decide (s.remain - 1 ≠ 0) } := by
  rcases engineTurn_cases m s with ⟨disabled, -⟩ | ⟨-, -, -, block⟩ | ⟨-, -, outside, -⟩
  · simp [engineEnabled, hb, hf] at disabled
  · rw [block, hb]
    by_cases last : s.remain - 1 = 0 <;> simp only [last, ne_eq, not_true, not_false_iff, if_true, if_false] <;> rfl
  · omega

theorem engineTurn_of_outside (outside : m < s.curAddr + 64) :
    engineTurn m s = raiseFault .blockOutOfRange (BitVec.ofNat 32 s.curAddr) s := by
  rcases engineTurn_cases m s with ⟨disabled, -⟩ | ⟨-, -, inside, -⟩ | ⟨-, -, -, fault⟩
  · simp [engineEnabled, hb, hf] at disabled
  · omega
  · exact fault

end

/-- Settles O42: an engine event is the engine's turn, by its three cases. -/
theorem Engine.blockStep : Obligations.BlockStep := by
  refine fun s => ⟨fun disabled => ?_, fun hb hf outside => ?_, fun hb hf inside => ?_⟩
  · exact congrArg Host.Outcome.next (engineTurn_of_disabled _ disabled)
  · have info : BitVec.ofNat 32 (s.curAddr % 2 ^ 32) = BitVec.ofNat 32 s.curAddr :=
      BitVec.eq_of_toNat_eq (by simp)
    rw [info]
    exact congrArg Host.Outcome.next (engineTurn_of_outside hb hf outside)
  · exact congrArg Host.Outcome.next (engineTurn_of_inside hb hf inside)

/-! ### The engine and the instructions -/

theorem raiseFault_withV (c : Cause) (u : Word) (s : State) (v : Vector Vec 32) :
    raiseFault c u { s with v := v } = { raiseFault c u s with v := v } := by
  cases hb : s.busy <;> simp [raiseFault, hb]

/-- The engine's turn does not look at the vector registers: whether it is enabled, whether its block is in range, and what it
then does are read from other fields. -/
theorem engineTurn_withV (m : Nat) (s : State) (v : Vector Vec 32) :
    engineTurn m { s with v := v } = { engineTurn m s with v := v } := by
  have enabled : engineEnabled { s with v := v } = engineEnabled s := rfl
  have range : blockInRange m { s with v := v } = blockInRange m s := rfl
  simp only [engineTurn, blockStep, enabled, range, raiseFault_withV]
  cases engineEnabled s
  · rfl
  · cases blockInRange m s <;> rfl

/-- An instruction reads the vector registers alone, so its result is the same in two states that agree on them. -/
theorem exec_of_same_v (i : Instr) {s s' : State} (same : s'.v = s.v) :
    exec i s' = .next (s'.writeV i.rd (i.result s.readV)) := by
  have read : s'.readV = s.readV := by funext r; simp only [State.readV, same]
  rw [exec_eq_result, read]

/-- Settles O49: an instruction writes its result to Rd, the engine's turn keeps the vector registers, and neither reads what
the other writes. -/
theorem engineAndPortIndependent : Obligations.EngineAndPortIndependent := by
  refine ⟨engineTurn_v, engineTurn_withV, fun i m s t run => ?_⟩
  obtain rfl : s.writeV i.rd (i.result s.readV) = t := Host.Outcome.next.inj ((exec_eq_result i s).symm.trans run)
  refine ⟨rfl, rfl, rfl, fun h a r => exec_of_same_v i rfl, ?_⟩
  rw [exec_of_same_v i (engineTurn_v m s)]
  have turn : engineTurn m (s.writeV i.rd (i.result s.readV)) = (engineTurn m s).writeV i.rd (i.result s.readV) := by
    rw [State.writeV, engineTurn_withV, State.writeV, engineTurn_v]
  rw [turn]

end Sys2Proof.Machine
end

section
/-! PROOFS. A command from START to its end (43_compression_engine R206..R209): how far it is, how a block step takes it on,
and that nothing the host does but reset disturbs it. -/

namespace Sys2Proof.Machine

/-! ### The blocks of a command -/

/-- CompressBlock folded over the n blocks of memory from address a on (43_compression_engine R209). -/
def compressBlocks (m : Memory) (a : Nat) (h : HashState) (n : Nat) : HashState :=
  (List.range n).foldl (fun h b => compressBlock h (Memory.readBlock m (a + 64 * b))) h

theorem compressBlocks_succ (m : Memory) (a : Nat) (h : HashState) (n : Nat) :
    compressBlocks m a h (n + 1) = compressBlock (compressBlocks m a h n) (Memory.readBlock m (a + 64 * n)) := by
  rw [compressBlocks, List.range_succ, List.foldl_append]
  rfl

/-- A block is its bytes. -/
theorem readBlock_congr {m m' : Memory} {a : Nat} (same : ∀ k < 64, Memory.read m (a + k) = Memory.read m' (a + k)) :
    Memory.readBlock m a = Memory.readBlock m' a :=
  Vector.ext fun k hk => by rw [getElem_readBlock, getElem_readBlock, same k hk]

/-! ### How far a command is -/

/-- In u, d blocks are done of the command that s holds in SRC_ADDR and NBLOCKS, started with hash state h: at least one is
left, STATE is their fold, and the command's registers and blocks are as they were in s (10_state R48, 20_memory R82). -/
structure BlocksDone (s : State) (h : HashState) (d : Nat) (u : State) : Prop where
  left : d < s.nblocks.toNat
  hash : u.hash = compressBlocks s.mem s.srcAddr.toNat h d
  curAddr : u.curAddr = s.srcAddr.toNat + 64 * d
  remain : u.remain.toNat = s.nblocks.toNat - d
  srcAddr : u.srcAddr = s.srcAddr
  nblocks : u.nblocks = s.nblocks
  blocks : ∀ a, s.srcAddr.toNat ≤ a → a < s.srcAddr.toNat + 64 * s.nblocks.toNat →
    Memory.read u.mem a = Memory.read s.mem a

/-- The unit s after START, with hash state h and the events es to come. -/
def State.started (s : State) (h : HashState) (es : List Event) : State := { start s with hash := h, schedule := es }

theorem busy_started {s : State} (blocks : s.nblocks ≠ 0) (h : HashState) (es : List Event) :
    (s.started h es).busy = true := if_pos blocks

/-- START with NBLOCKS ≠ 0, whatever events are still to come. -/
theorem BlocksDone.started {s : State} (blocks : s.nblocks ≠ 0) (h : HashState) (es : List Event) :
    BlocksDone s h 0 (s.started h es) where
  left := Nat.pos_of_ne_zero fun zero => blocks (BitVec.eq_of_toNat_eq zero)
  hash := rfl
  curAddr := rfl
  remain := rfl
  srcAddr := rfl
  nblocks := rfl
  blocks _ _ _ := rfl

section
variable {s u : State} {h : HashState} {d : Nat} (done : BlocksDone s h d u)
include done

/-- How far a command is does not depend on the vector registers or the model's own fields. -/
theorem BlocksDone.of_frame (v : Vector Vec 32) (schedule : List Event) (x : Word) (b : Byte) (n : Nat) :
    BlocksDone s h d { u with v := v, schedule := schedule, lastRead := x, lastByte := b, draws := n } :=
  ⟨done.left, done.hash, done.curAddr, done.remain, done.srcAddr, done.nblocks, done.blocks⟩

/-- A write outside the command's blocks leaves them as they were. -/
theorem BlocksDone.memWrite (canonical : Memory.wf u.mem = true) {a : Nat} (b : Byte)
    (free : ¬ (s.srcAddr.toNat ≤ a ∧ a < s.srcAddr.toNat + 64 * s.nblocks.toNat)) :
    BlocksDone s h d { u with mem := Memory.write u.mem a b } where
  left := done.left
  hash := done.hash
  curAddr := done.curAddr
  remain := done.remain
  srcAddr := done.srcAddr
  nblocks := done.nblocks
  blocks c lower upper := by
    have apart : c ≠ a := fun same => free (same ▸ ⟨lower, upper⟩)
    rw [memoryReadAfterWrite u.mem a c b canonical, if_neg apart]
    exact done.blocks c lower upper

/-- The block of the next step is block d of the memory the command started with. -/
theorem BlocksDone.nextBlock :
    compressBlock u.hash (Memory.readBlock u.mem u.curAddr) = compressBlocks s.mem s.srcAddr.toNat h (d + 1) := by
  have left := done.left
  have block : Memory.readBlock u.mem u.curAddr = Memory.readBlock s.mem (s.srcAddr.toNat + 64 * d) := by
    rw [done.curAddr]
    exact readBlock_congr fun k hk => done.blocks _ (by omega) (by omega)
  rw [done.hash, block, compressBlocks_succ]

/-- A block step inside memory: the command goes on with one more block done, or that was the last and BUSY becomes 0. -/
theorem BlocksDone.blockStep {m : Nat} (hb : u.busy = true) (hf : u.fault = false) (inside : u.curAddr + 64 ≤ m) :
    (engineTurn m u).fault = false ∧
    (engineTurn m u).hash = compressBlocks s.mem s.srcAddr.toNat h (d + 1) ∧
    ((d + 1 < s.nblocks.toNat ∧ (engineTurn m u).busy = true ∧ BlocksDone s h (d + 1) (engineTurn m u)) ∨
     (d + 1 = s.nblocks.toNat ∧ (engineTurn m u).busy = false)) := by
  have left := done.left
  have remain := done.remain
  have fewer : (u.remain - 1).toNat = s.nblocks.toNat - (d + 1) := by bv_omega
  rw [engineTurn_of_inside hb hf inside]
  refine ⟨hf, done.nextBlock, ?_⟩
  by_cases last : d + 1 = s.nblocks.toNat
  · have finished : u.remain - 1 = 0 := BitVec.eq_of_toNat_eq (by rw [fewer, last, Nat.sub_self]; rfl)
    exact .inr ⟨last, decide_eq_false (not_not_intro finished)⟩
  · have more : u.remain - 1 ≠ 0 := fun finished => by
      have zero : (u.remain - 1).toNat = 0 := by rw [finished]; rfl
      omega
    have further : u.curAddr + 64 = s.srcAddr.toNat + 64 * (d + 1) := by rw [done.curAddr]; rfl
    exact .inl ⟨by omega, decide_eq_true more,
      ⟨by omega, done.nextBlock, further, fewer, done.srcAddr, done.nblocks, done.blocks⟩⟩

end

/-- The step on a CTRL write with START to an idle unit, INIT first if its bit is set. -/
theorem step_start {s : State} {x : Word} (hb : s.busy = false) (hf : s.fault = false) (bit : x.getLsbD 0 = true)
    (es : List Event) :
    step { s with schedule := .regWrite 0x000 32 x :: es } =
      .next (s.started (if x.getLsbD 1 then h0 else s.hash) es) := by
  have idle := writeCtrl_of_idle (s := { s with schedule := es }) x hb hf
  refine (step_regWrite .ctrl x { s with schedule := es }).trans ?_
  rw [writeReg, idle, bit]
  cases x.getLsbD 1 <;> rfl

/-! ### A command left alone -/

@[simp] theorem engineTurn_schedule (m : Nat) (s : State) : (engineTurn m s).schedule = s.schedule := by
  rcases engineTurn_cases m s with ⟨-, h⟩ | ⟨-, -, -, h⟩ | ⟨-, -, -, h⟩ <;> simp [h]

/-- With nothing scheduled a run is engine turns, one a step. -/
theorem run_of_nil (k : Nat) {s : State} (h : s.schedule = []) :
    Host.Core.run core k s = .next ((engineTurn Config.memSize)^[k] s) := by
  induction k generalizing s with
  | zero => rfl
  | succ k ih => rw [run_succ_of_next k (step_of_nil h), ih (by simpa using h), Function.iterate_succ_apply]

/-- What a turn of the engine keeps, any number of turns keeps. -/
theorem iterate_engineTurn_keeps {α : Type} {m : Nat} {f : State → α} (keeps : ∀ s, f (engineTurn m s) = f s) (k : Nat)
    (s : State) : f ((engineTurn m)^[k] s) = f s := by
  induction k with
  | zero => rfl
  | succ k ih => rw [Function.iterate_succ_apply', keeps, ih]

/-- After fewer turns than blocks, each inside memory, a command is under way with a block done a turn. -/
theorem BlocksDone.iterate {m : Nat} {s u : State} {h : HashState} (started : BlocksDone s h 0 u) (hb : u.busy = true)
    (hf : u.fault = false) (inside : s.srcAddr.toNat + 64 * s.nblocks.toNat ≤ m) {k : Nat} (hk : k < s.nblocks.toNat) :
    ((engineTurn m)^[k] u).busy = true ∧ ((engineTurn m)^[k] u).fault = false ∧
    BlocksDone s h k ((engineTurn m)^[k] u) := by
  induction k with
  | zero => exact ⟨hb, hf, started⟩
  | succ k ih =>
    obtain ⟨busy, unfaulted, done⟩ := ih (by omega)
    rw [Function.iterate_succ_apply']
    obtain ⟨unfaulted', -, ⟨-, busy', done'⟩ | ⟨last, -⟩⟩ :=
      done.blockStep busy unfaulted (m := m) (by rw [done.curAddr]; omega)
    · exact ⟨busy', unfaulted', done'⟩
    · omega

/-- Settles O48: the turn before the last leaves one block, and the step on it ends the command. -/
theorem commandRunsToEnd : Obligations.CommandRunsToEnd := by
  intro s hb hf blocks inside begin
  have begun : step begin = .next (s.started s.hash []) := step_start hb hf (by decide) []
  have run (k : Nat) :
      Host.Core.run core (1 + k) begin = .next ((engineTurn Config.memSize)^[k] (s.started s.hash [])) := by
    rw [Nat.add_comm, run_succ_of_next k begun, run_of_nil k rfl]
  have started := BlocksDone.started blocks s.hash []
  have underWay {k : Nat} := started.iterate (k := k) (busy_started blocks s.hash []) hf inside
  refine ⟨fun k hk => ?_, _, run _, ?_⟩
  · obtain ⟨busy, unfaulted, -⟩ := underWay hk
    exact ⟨_, run k, busy, unfaulted⟩
  obtain ⟨n, count⟩ : ∃ n, s.nblocks.toNat = n + 1 := Nat.exists_eq_add_one.2 started.left
  obtain ⟨busy, unfaulted, done⟩ := underWay (k := n) (by omega)
  obtain ⟨unfaulted', hash, ⟨more, -⟩ | ⟨-, idle⟩⟩ :=
    done.blockStep busy unfaulted (m := Config.memSize) (by rw [done.curAddr]; omega)
  · omega
  · rw [count]
    refine ⟨?_, ?_, ?_, iterate_engineTurn_keeps (engineTurn_v _) _ _, iterate_engineTurn_keeps (engineTurn_mem _) _ _,
      iterate_engineTurn_keeps (engineTurn_srcAddr _) _ _, iterate_engineTurn_keeps (engineTurn_nblocks _) _ _⟩
    all_goals rw [Function.iterate_succ_apply']
    · exact idle
    · exact unfaulted'
    · exact hash

/-! ### A command under every interleaving -/

theorem WriteEffect.keeps_schedule {x : Word} {s t : State} {r : BlockReg} (h : WriteEffect x s r t) :
    t.schedule = s.schedule := by
  cases h with
  | undefined u => exact raiseFault_schedule _ u s
  | _ => rfl

/-- Taking an event leaves the events after it. -/
theorem takeEvent_schedule {m : Nat} {e : Event} {s t : State} (h : takeEvent m e s = .next t) :
    t.schedule = s.schedule := by
  cases takeEvent_effect h with
  | regWrite effect => exact effect.keeps_schedule
  | engine => exact engineTurn_schedule m s
  | reset => exact takeReset_schedule s
  | _ => rfl

/-- The command that s holds, started with hash state h, is under way in u, whose memory is canonical. -/
def UnderWay (s : State) (h : HashState) (u : State) : Prop :=
  u.busy = true ∧ Memory.wf u.mem = true ∧ ∃ d, BlocksDone s h d u

/-- The command has ended in t: with all its blocks done, or by a fault (60_exceptions R263). -/
def Ended (s : State) (h : HashState) (t : State) : Prop :=
  t.busy = false ∧ (t.fault = false → t.hash = compressBlocks s.mem s.srcAddr.toNat h s.nblocks.toNat)

theorem UnderWay.started {s : State} (blocks : s.nblocks ≠ 0) (canonical : Memory.wf s.mem = true) (h : HashState)
    (es : List Event) : UnderWay s h (s.started h es) :=
  ⟨busy_started blocks h es, canonical, 0, .started blocks h es⟩

theorem Ended.raiseFault (s : State) (h : HashState) (c : Cause) (x : Word) (u : State) :
    Ended s h (raiseFault c x u) :=
  ⟨raiseFault_busy c x u, fun unfaulted => absurd unfaulted (by simp)⟩

section
variable {s u : State} {h : HashState} (command : UnderWay s h u)
include command

theorem UnderWay.of_frame (v : Vector Vec 32) (schedule : List Event) (x : Word) (b : Byte) (n : Nat) :
    UnderWay s h { u with v := v, schedule := schedule, lastRead := x, lastByte := b, draws := n } := by
  obtain ⟨busy, canonical, d, done⟩ := command
  exact ⟨busy, canonical, d, done.of_frame v schedule x b n⟩

theorem UnderWay.engineTurn (m : Nat) : UnderWay s h (engineTurn m u) ∨ Ended s h (engineTurn m u) := by
  obtain ⟨busy, canonical, d, done⟩ := command
  cases hf : u.fault
  · rcases Nat.lt_or_ge m (u.curAddr + 64) with outside | inside
    · rw [engineTurn_of_outside busy hf outside]
      exact .inr (.raiseFault ..)
    · obtain ⟨-, hash, ⟨-, busy', done'⟩ | ⟨last, idle⟩⟩ := done.blockStep busy hf inside
      · exact .inl ⟨busy', by rwa [engineTurn_mem], d + 1, done'⟩
      · exact .inr ⟨idle, fun _ => last ▸ hash⟩
  · rw [engineTurn_of_disabled m (.inr hf)]
    exact .inl ⟨busy, canonical, d, done⟩

/-- While BUSY = 1 a register write is ignored, writes a vector register, or faults at the port. -/
theorem UnderWay.writeEffect {x : Word} {r : BlockReg} {t : State} (effect : WriteEffect x u r t) :
    UnderWay s h t ∨ Ended s h t := by
  have busy := command.1
  cases effect with
  | ignored => exact .inl command
  | executed => exact .inl (command.of_frame ..)
  | vreg => exact .inl (command.of_frame ..)
  | undefined => exact .inr (.raiseFault ..)
  | init _ idle | start idle | initStart _ idle | srcAddr idle | nblocks idle | state _ idle => simp [busy] at idle

/-- The host cannot write the active command's blocks, so a write that answers is elsewhere (20_memory R82). -/
theorem UnderWay.hostMemWrite {m a : Nat} {b : Byte} {t : State} (written : hostMemWrite m a b u = .next t) :
    UnderWay s h t := by
  obtain ⟨busy, canonical, d, done⟩ := command
  obtain ⟨-, free, rfl⟩ := hostMemWrite_cases written
  refine ⟨busy, Memory.wf_write canonical a b, d, done.memWrite canonical b fun ⟨lower, upper⟩ => ?_⟩
  have active : u.inActiveBlocks a = true :=
    (inActiveBlocks_iff u a).2 ⟨busy, by rwa [done.srcAddr], by rwa [done.srcAddr, done.nblocks]⟩
  simp [active] at free

theorem UnderWay.takeEvent {m : Nat} {e : Event} {t : State} (noReset : e ≠ .reset) (taken : takeEvent m e u = .next t) :
    UnderWay s h t ∨ Ended s h t := by
  cases takeEvent_effect taken with
  | regWrite effect => exact command.writeEffect effect
  | regRead => exact .inl (command.of_frame ..)
  | memRead => exact .inl (command.of_frame ..)
  | memWrite a b => exact .inl (command.hostMemWrite taken)
  | engine => exact command.engineTurn m
  | reset => exact absurd rfl noReset

/-- A step under a command takes one event or an engine turn, and no reset comes after it either. -/
theorem UnderWay.step {t : State} (noReset : .reset ∉ u.schedule) (stepped : step u = .next t) :
    .reset ∉ t.schedule ∧ (UnderWay s h t ∨ Ended s h t) := by
  rcases stepWith_cases stepped with ⟨-, rfl⟩ | ⟨e, rest, scheduled, taken⟩
  · exact ⟨by rwa [engineTurn_schedule], command.engineTurn _⟩
  · obtain ⟨first, later⟩ : .reset ≠ e ∧ .reset ∉ rest := by simpa [scheduled] using noReset
    have waiting := command.of_frame u.v rest u.lastRead u.lastByte u.draws
    exact ⟨by rwa [takeEvent_schedule taken], waiting.takeEvent first.symm taken⟩

end

/-- A run under a command whose last state is the first with BUSY = 0 ends where the command does. -/
theorem UnderWay.run {s u t : State} {h : HashState} (command : UnderWay s h u) (noReset : .reset ∉ u.schedule) {k : Nat}
    (busy : ∀ j < k, ∃ w, Host.Core.run core j u = .next w ∧ w.busy = true)
    (ran : Host.Core.run core k u = .next t) (idle : t.busy = false) : Ended s h t := by
  induction k generalizing u with
  | zero =>
    obtain rfl : u = t := Host.Outcome.next.inj ran
    simp [command.1] at idle
  | succ k ih =>
    obtain ⟨u', stepped, ran'⟩ := step_of_run_succ ran
    have busy' : ∀ j < k, ∃ w, Host.Core.run core j u' = .next w ∧ w.busy = true := fun j hj => by
      rw [← run_succ_of_next j stepped]
      exact busy (j + 1) (by omega)
    obtain ⟨noReset', underWay | ended⟩ := command.step noReset stepped
    · exact ih underWay noReset' busy' ran'
    · cases k with
      | zero => exact Host.Outcome.next.inj ran' ▸ ended
      | succ k =>
        obtain ⟨w, here, still⟩ := busy' 0 (by omega)
        obtain rfl : u' = w := Host.Outcome.next.inj here
        simp [ended.1] at still

/-- Settles O47: the CTRL write starts the command, and from there it is under way until it ends. -/
theorem commandEndState : Obligations.CommandEndState := by
  intro s x rest hb hf blocks canonical bit noReset begin k t hk busy ran idle unfaulted
  have begun := step_start hb hf bit rest
  have command := UnderWay.started blocks canonical (if x.getLsbD 1 then h0 else s.hash) rest
  obtain ⟨n, rfl⟩ : ∃ n, k = n + 1 := Nat.exists_eq_add_one.2 hk
  rw [run_succ_of_next n begun] at ran
  refine (command.run noReset (fun j hj => ?_) ran idle).2 unfaulted
  rw [← run_succ_of_next j begun]
  exact busy (j + 1) (by omega) (by omega)

end Sys2Proof.Machine
end

section
/-! PROOFS. What the host driver computes by itself (44_host_driver R240..R246): the padded message and its blocks, the
digest, and ComputeHash. -/

namespace Sys2Proof.Machine

/-! ### The digest -/

theorem getD_be32 (x : Word) (k : Fin 4) : (be32 x).getD k.val 0 = x.extractLsb' (24 - 8 * k.val) 8 := by
  match k with
  | 0 | 1 | 2 | 3 => rfl

/-- Pieces of n items each put together: item k of piece i is item n i + k of the whole. -/
theorem getD_flatMap_pieces {α β : Type} {f : α → List β} {n : Nat} (piece : ∀ a, (f a).length = n) (d : β) {k : Nat}
    (hk : k < n) {l : List α} {i : Nat} (hi : i < l.length) :
    (l.flatMap f).getD (n * i + k) d = (f l[i]).getD k d := by
  induction l generalizing i with
  | nil => simp at hi
  | cons a l ih =>
    rw [List.flatMap_cons]
    cases i with
    | zero => rw [Nat.mul_zero, Nat.zero_add, List.getD_append _ _ _ _ (by rwa [piece])]; rfl
    | succ i =>
      have past : n * (i + 1) + k = n + (n * i + k) := by rw [Nat.mul_succ]; omega
      rw [past, List.getD_append_right _ _ _ _ (by rw [piece]; omega), piece, Nat.add_sub_cancel_left]
      exact ih (by simpa using hi)

@[simp] theorem length_digest (h : HashState) : (digest h).length = 32 := by
  simp [digest, List.length_flatMap, be32]

/-- Settles O58: each state word is a piece of four bytes, the high byte first. -/
theorem digestBytes : Obligations.DigestBytes := by
  refine fun h => ⟨length_digest h, fun i k => ?_⟩
  rw [digest, getD_flatMap_pieces (f := be32) (n := 4) (fun _ => rfl) 0 k.isLt (by simp), getD_be32, Vector.getElem_toList]

/-! ### ComputeHash -/

theorem computeHash_of_lt {data : List Byte} (short : data.length < 2 ^ 61) :
    computeHash data = .ok (digest (hashBlocks h0 (blocksOf (padMessage data)))) := if_neg (Nat.not_le.2 short)

/-- Settles O57: the digest of any hash state has 32 bytes, and the length alone decides a refusal. -/
theorem computeHashTotal : Obligations.ComputeHashTotal := fun _ =>
  ⟨fun short => ⟨_, computeHash_of_lt short, length_digest _⟩, fun long => if_pos long⟩

/-! ### Padding -/

theorem zeroFill_lt (len : Nat) : zeroFill len < 64 := by
  unfold zeroFill
  omega

@[simp] theorem length_be64 (x : Nat) : (be64 x).length = 8 := by simp [be64]

/-- The zero fill takes the message, the 0x80 and the eight length bytes to the end of a block, the next one where the last
block of the message has more than 55 bytes (44_host_driver R241, R242). -/
theorem padded_length (len : Nat) : len + 1 + zeroFill len + 8 = 64 * blockCount len := by
  unfold zeroFill blockCount
  split <;> omega

theorem length_padMessage (data : List Byte) : (padMessage data).length = 64 * blockCount data.length := by
  rw [← padded_length]
  simp [padMessage, Nat.add_assoc, Nat.add_comm 1]

theorem blockCount_pos (len : Nat) : 0 < blockCount len := by
  have := padded_length len
  omega

/-- Eight bytes, each a digit to base 256, read big-endian. -/
theorem foldl_be64 {x : Nat} (h : x < 2 ^ 64) : (be64 x).foldl (fun n b => n * 256 + b.toNat) 0 = x := by
  have digits : be64 x = [56, 48, 40, 32, 24, 16, 8, 0].map fun k => BitVec.ofNat 8 (x >>> k) := rfl
  rw [digits]
  simp only [List.map_cons, List.map_nil, List.foldl_cons, List.foldl_nil, BitVec.toNat_ofNat, Nat.shiftRight_eq_div_pow]
  omega

/-- Settles O56: the four pieces of the padded message one after the other, each at the length of those before it. -/
theorem paddedMessage : Obligations.PaddedMessage := by
  intro data short len p
  have total : p.length = 64 * blockCount len := length_padMessage data
  have sum : len + 1 + zeroFill len + 8 = 64 * blockCount len := padded_length len
  have pieces : p = data ++ ([0x80] ++ (List.replicate (zeroFill len) 0 ++ be64 (8 * len))) := by
    simp [p, padMessage, len]
  have trailer : p.drop (p.length - 8) = be64 (8 * len) := by
    have front : p.length - 8 = (data ++ [0x80] ++ List.replicate (zeroFill len) 0).length := by
      simp only [List.length_append, List.length_singleton, List.length_replicate]
      omega
    rw [front]
    exact List.drop_left
  refine ⟨zeroFill_lt len, by omega, by omega, total, by omega, ?_, ?_, fun k above below => ?_, ?_, fun whole => ?_⟩
  · rw [pieces, List.take_left]
  · rw [pieces, List.getD_append_right _ _ _ _ (Nat.le_refl _), Nat.sub_self]
    rfl
  · obtain ⟨j, rfl⟩ := Nat.exists_eq_add_of_lt above
    have place : len + j + 1 - data.length - [(0x80 : Byte)].length = j := by
      simp only [List.length_singleton]
      omega
    rw [pieces, List.getD_append_right _ _ _ _ (by omega), List.getD_append_right _ _ _ _ (by simp; omega), place,
      List.getD_append _ _ _ _ (by simp; omega)]
    simp
  · rw [trailer, foldl_be64 (by omega)]
  · have fill : zeroFill len = 55 := by
      unfold zeroFill
      omega
    rw [pieces, fill, List.append_assoc]

end Sys2Proof.Machine
end

section
/-! PROOFS. Lists of host accesses (44_host_driver): a list that answers is a run of the machine on the schedule it makes, and
the words that reads of several registers return. -/

namespace Sys2Proof.Machine

/-! ### An access does not look at the events after it -/

theorem raiseFault_withSchedule (c : Cause) (u : Word) (s : State) (es : List Event) :
    raiseFault c u { s with schedule := es } = { raiseFault c u s with schedule := es } := by
  cases hb : s.busy <;> simp [raiseFault, hb]

theorem engineTurn_withSchedule (m : Nat) (s : State) (es : List Event) :
    engineTurn m { s with schedule := es } = { engineTurn m s with schedule := es } := by
  have enabled : engineEnabled { s with schedule := es } = engineEnabled s := rfl
  have range : blockInRange m { s with schedule := es } = blockInRange m s := rfl
  simp only [engineTurn, blockStep, enabled, range, raiseFault_withSchedule]
  cases engineEnabled s
  · rfl
  · cases blockInRange m s <;> rfl

theorem writeCtrl_withSchedule (x : Word) (s : State) (es : List Event) :
    writeCtrl x { s with schedule := es } = { writeCtrl x s with schedule := es } := by
  simp only [writeCtrl]
  cases s.busy || s.fault
  · cases x.getLsbD 1 <;> cases x.getLsbD 0 <;> rfl
  · rfl

theorem writeInstr_withSchedule {x : Word} {s t : State} (h : writeInstr x s = .next t) (es : List Event) :
    writeInstr x { s with schedule := es } = .next { t with schedule := es } := by
  rcases writeInstr_cases h with ⟨hf, rfl⟩ | ⟨hf, i, hi, run⟩ | ⟨hf, u, hu, rfl⟩
  · exact writeInstr_of_fault (s := { t with schedule := es }) x hf
  · obtain rfl := Host.Outcome.next.inj ((exec_eq_result i s).symm.trans run)
    rw [writeInstr_of_decode_ok (s := { s with schedule := es }) hf hi]
    exact exec_of_same_v i rfl
  · rw [writeInstr_of_decode_error (s := { s with schedule := es }) hf hu, raiseFault_withSchedule]

theorem writeReg_withSchedule {r : BlockReg} {x : Word} {s t : State} (h : writeReg r x s = .next t) (es : List Event) :
    writeReg r x { s with schedule := es } = .next { t with schedule := es } := by
  cases r with
  | instr => exact writeInstr_withSchedule h es
  | ctrl =>
    obtain rfl := Host.Outcome.next.inj h
    exact congrArg _ (writeCtrl_withSchedule x s es)
  | srcAddr | nblocks | state i =>
    obtain rfl := Host.Outcome.next.inj h
    cases hb : s.busy <;> simp [writeReg, unlessBusy, hb, State.writeHash]
  | status | faultInfo | vreg r e =>
    obtain rfl := Host.Outcome.next.inj h
    rfl

theorem readReg_withSchedule (r : BlockReg) (s : State) (es : List Event) :
    readReg r { s with schedule := es } = { readReg r s with schedule := es } := by
  cases r with
  | state i => cases hb : s.busy <;> simp [readReg, hb, State.readHash]
  | _ => rfl

/-- An event that answers does so whatever events come after it, and leaves them to come. -/
theorem takeEvent_withSchedule {m : Nat} {e : Event} {s t : State} (h : takeEvent m e s = .next t) (es : List Event) :
    takeEvent m e { s with schedule := es } = .next { t with schedule := es } := by
  cases e with
  | regWrite off width x =>
    obtain ⟨r, reached, written⟩ := hostWrite_cases h
    obtain ⟨rfl, rfl⟩ := regAt_eq_ok_iff.1 reached
    exact (hostWrite_offset r x _).trans (writeReg_withSchedule written es)
  | regRead off width =>
    obtain ⟨r, reached, rfl⟩ := hostRead_cases h
    obtain ⟨rfl, rfl⟩ := regAt_eq_ok_iff.1 reached
    exact (hostRead_offset r _).trans (congrArg _ (readReg_withSchedule r s es))
  | memWrite a b =>
    obtain ⟨inside, free, rfl⟩ := hostMemWrite_cases h
    exact hostMemWrite_free (s := { s with schedule := es }) inside (Bool.eq_false_iff.1 free) b
  | memRead a =>
    obtain ⟨inside, rfl⟩ := hostMemRead_cases h
    exact hostMemRead_inside inside _
  | engine =>
    obtain rfl := Host.Outcome.next.inj h
    exact congrArg _ (engineTurn_withSchedule m s es)
  | reset =>
    obtain rfl := Host.Outcome.next.inj h
    rfl

theorem ofOutcome_eq_ok {o : Host.Outcome State Fault Refusal} {t : State} (h : ofOutcome o = .ok t) : o = .next t := by
  cases o with
  | next s => exact congrArg _ (Except.ok.inj h)
  | fault r | refused r => cases h

/-- The host's accesses one after the other are the run of the machine on them as its schedule. -/
theorem run_of_driveAll {es : List Event} {s t : State} (h : driveAll Config.memSize es s = .ok t) :
    Host.Core.run core es.length { s with schedule := es } = .next { t with schedule := [] } := by
  induction es generalizing s with
  | nil =>
    obtain rfl := Except.ok.inj h
    rfl
  | cons e es ih =>
    simp only [driveAll] at h
    split at h
    · next u taken =>
      have stepped : step { s with schedule := e :: es } = .next { u with schedule := es } :=
        (step_of_cons rfl).trans (takeEvent_withSchedule (ofOutcome_eq_ok taken) es)
      rw [List.length_cons, run_succ_of_next _ stepped, ih h]
    · cases h

/-! ### Accesses to registers -/

theorem driveAll_regWrite {m : Nat} {r : BlockReg} {x : Word} {es : List Event} {s t : State}
    (h : writeReg r x s = .next t) : driveAll m (.regWrite r.offset 32 x :: es) s = driveAll m es t :=
  driveAll_cons ((hostWrite_offset r x s).trans h)

/-- Reads of registers that do not draw free values return their words and change nothing else. -/
theorem driveReads_map (m : Nat) {ι : Type} {reg : ι → BlockReg} {word : ι → Word} {s : State}
    (reads : ∀ i x, readReg (reg i) { s with lastRead := x } = { s with lastRead := word i }) (is : List ι) (x : Word) :
    ∃ y, driveReads m (is.map fun i => (reg i).offset) { s with lastRead := x } =
      .ok (is.map word, { s with lastRead := y }) := by
  induction is generalizing x with
  | nil => exact ⟨x, rfl⟩
  | cons i is ih =>
    obtain ⟨y, rest⟩ := ih (word i)
    have first : driveRead m (reg i).offset { s with lastRead := x } = .ok (word i, { s with lastRead := word i }) :=
      driveRead_of_hostRead (t := { s with lastRead := word i }) ((hostRead_offset _ _).trans (congrArg _ (reads i x)))
    exact ⟨y, by simp only [List.map_cons, driveReads, first, rest]⟩

/-- The reads are accesses like any others. -/
theorem driveAll_of_driveReads {m : Nat} {offs : List Nat} {s t : State} {ws : List Word}
    (h : driveReads m offs s = .ok (ws, t)) : driveAll m (offs.map fun off => .regRead off 32) s = .ok t := by
  induction offs generalizing s ws with
  | nil => cases h; rfl
  | cons off offs ih =>
    simp only [driveReads, driveRead] at h
    split at h
    · next w u first =>
      split at first
      · next u' taken =>
        cases first
        split at h
        · next ws' x rest =>
          cases h
          exact (driveAll_append (es := [.regRead off 32]) taken).trans (ih rest)
        · cases h
      · cases first
    · cases h

/-- The items of a vector in order are its list. -/
theorem map_finRange_getElem {α : Type} {n : Nat} (v : Vector α n) : (List.finRange n).map (fun i => v[i.val]) = v.toList :=
  List.ext_getElem (by simp) (by simp)

/-- The host reads STATE0..7 of a unit with BUSY = 0 as they are (10_state R36, R45). -/
theorem driveReads_stateOffsets (m : Nat) {s : State} (idle : s.busy = false) :
    ∃ x, driveReads m stateOffsets s = .ok (s.hash.toList, { s with lastRead := x }) := by
  rw [← map_finRange_getElem]
  exact driveReads_map m (reg := .state) (fun i x => by simp [readReg, idle, State.readHash]) (List.finRange 8) s.lastRead

end Sys2Proof.Machine
end

section
/-! PROOFS. The host at work on the block engine (44_host_driver R243): the padded message in memory, a command polled to its
end, and the commands of a split message one after the other. -/

namespace Sys2Proof.Machine

/-! ### Bytes in memory -/

/-- Memory holds a list of bytes from address a on. -/
def HoldsBytes (m : Memory) (a : Nat) (bytes : List Byte) : Prop :=
  ∀ k < bytes.length, Memory.read m (a + k) = bytes.getD k 0

/-- Memory after a list of bytes is written from address a on. -/
def Memory.writeBytes (m : Memory) : Nat → List Byte → Memory
  | _, [] => m
  | a, b :: bs => Memory.writeBytes (Memory.write m a b) (a + 1) bs

theorem Memory.wf_writeBytes {m : Memory} (canonical : Memory.wf m = true) (a : Nat) (bytes : List Byte) :
    Memory.wf (Memory.writeBytes m a bytes) = true := by
  induction bytes generalizing m a with
  | nil => exact canonical
  | cons b bs ih => exact ih (Memory.wf_write canonical a b) (a + 1)

/-- Every address outside the bytes written holds what it did. -/
theorem Memory.read_writeBytes_apart {m : Memory} (canonical : Memory.wf m = true) {a c : Nat} {bytes : List Byte}
    (apart : c < a ∨ a + bytes.length ≤ c) : Memory.read (Memory.writeBytes m a bytes) c = Memory.read m c := by
  induction bytes generalizing m a with
  | nil => rfl
  | cons b bs ih =>
    rw [List.length_cons] at apart
    rw [Memory.writeBytes, ih (Memory.wf_write canonical a b) (by omega), memoryReadAfterWrite m a c b canonical,
      if_neg (by omega)]

theorem holdsBytes_writeBytes {m : Memory} (canonical : Memory.wf m = true) (a : Nat) (bytes : List Byte) :
    HoldsBytes (Memory.writeBytes m a bytes) a bytes := by
  induction bytes generalizing m a with
  | nil => exact fun k hk => absurd hk (Nat.not_lt_zero k)
  | cons b bs ih =>
    have canonical' := Memory.wf_write canonical a b
    intro k hk
    cases k with
    | zero =>
      rw [Memory.writeBytes, Memory.read_writeBytes_apart canonical' (by omega), memoryReadAfterWrite m a _ b canonical]
      exact if_pos rfl
    | succ k =>
      rw [Memory.writeBytes, List.getD_cons_succ, Nat.add_comm k, ← Nat.add_assoc]
      exact ih canonical' (a + 1) k (by simpa using hk)

/-- While BUSY = 0 the host can place bytes anywhere inside memory (20_memory R70, R82). -/
theorem driveAll_placeEvents {m : Nat} {s : State} (idle : s.busy = false) {a : Nat} {bytes : List Byte}
    (inside : a + bytes.length ≤ m) :
    driveAll m (placeEvents a bytes) s = .ok { s with mem := Memory.writeBytes s.mem a bytes } := by
  induction bytes generalizing s a with
  | nil => rfl
  | cons b bs ih =>
    rw [List.length_cons] at inside
    have free : ¬ s.inActiveBlocks a = true := fun active => by simp [State.inActiveBlocks, idle] at active
    have written : takeEvent m (.memWrite a b) s = .next { s with mem := Memory.write s.mem a b } :=
      hostMemWrite_free (by omega) free b
    rw [placeEvents, driveAll_cons written]
    exact ih (s := { s with mem := Memory.write s.mem a b }) idle (by omega)

/-! ### The blocks of a list of bytes -/

theorem blockOf_append_left (p q : List Byte) {b : Nat} (before : 64 * (b + 1) ≤ p.length) :
    blockOf (p ++ q) b = blockOf p b := by
  ext1 k hk
  simp only [blockOf, Vector.getElem_ofFn]
  exact List.getD_append p q 0 (64 * b + k) (by omega)

theorem blockOf_append_right (p q : List Byte) {n : Nat} (whole : p.length = 64 * n) (b : Nat) :
    blockOf (p ++ q) (n + b) = blockOf q b := by
  ext1 k hk
  have place : 64 * (n + b) + k - p.length = 64 * b + k := by omega
  simp only [blockOf, Vector.getElem_ofFn]
  rw [List.getD_append_right p q 0 _ (by omega), place]

theorem blocksOf_append {p q : List Byte} {n : Nat} (whole : p.length = 64 * n) :
    blocksOf (p ++ q) = blocksOf p ++ blocksOf q := by
  have count : (p ++ q).length / 64 = n + q.length / 64 := by
    rw [List.length_append]
    omega
  have first : p.length / 64 = n := by omega
  rw [blocksOf, blocksOf, blocksOf, count, first, List.range_add, List.map_append, List.map_map]
  refine congrArg₂ _ (List.map_congr_left fun b hb => ?_) (List.map_congr_left fun b _ => ?_)
  · have before := List.mem_range.1 hb
    exact blockOf_append_left p q (by omega)
  · exact blockOf_append_right p q whole b

theorem hashBlocks_append (h : HashState) (bs cs : List Block) :
    hashBlocks h (bs ++ cs) = hashBlocks (hashBlocks h bs) cs := List.foldl_append

/-- The engine's fold over the blocks of memory is the fold over the blocks of the bytes memory holds. -/
theorem HoldsBytes.compressBlocks {m : Memory} {a n : Nat} {bytes : List Byte} (held : HoldsBytes m a bytes)
    (whole : bytes.length = 64 * n) (h : HashState) : compressBlocks m a h n = hashBlocks h (blocksOf bytes) := by
  have count : bytes.length / 64 = n := by omega
  rw [Machine.compressBlocks, hashBlocks, blocksOf, count, List.foldl_map]
  refine List.foldl_ext _ _ _ fun g b hb => congrArg (compressBlock g) (Vector.ext fun k hk => ?_)
  have inside := List.mem_range.1 hb
  rw [getElem_readBlock, Nat.add_assoc, held _ (by omega), blockOf, Vector.getElem_ofFn]

/-! ### A command polled to its end -/

/-- In u the command that s holds, started with hash state h, is under way without a fault, with d blocks done. -/
structure Running (s : State) (h : HashState) (d : Nat) (u : State) : Prop where
  busy : u.busy = true
  unfaulted : u.fault = false
  done : BlocksDone s h d u

/-- In u that command has ended without a fault. -/
structure Finished (s : State) (h : HashState) (u : State) : Prop where
  busy : u.busy = false
  unfaulted : u.fault = false
  hash : u.hash = compressBlocks s.mem s.srcAddr.toNat h s.nblocks.toNat

section
variable {m : Nat} {s u : State} {h : HashState} {d : Nat}

theorem Running.read (running : Running s h d u) (x : Word) : Running s h d { u with lastRead := x } :=
  ⟨running.busy, running.unfaulted, running.done.of_frame u.v u.schedule x u.lastByte u.draws⟩

theorem Finished.read (finished : Finished s h u) (x : Word) : Finished s h { u with lastRead := x } :=
  ⟨finished.busy, finished.unfaulted, finished.hash⟩

/-- Turns of the engine after the command has ended do nothing. -/
theorem Finished.iterate (finished : Finished s h u) (n : Nat) : (engineTurn m)^[n] u = u :=
  Function.iterate_fixed (engineTurn_of_disabled m (.inl finished.busy)) n

/-- Turns of the engine take a command inside memory on by a block each, to its end if they are enough. -/
theorem Running.iterate (running : Running s h d u) (inside : s.srcAddr.toNat + 64 * s.nblocks.toNat ≤ m) (n : Nat) :
    Running s h (d + n) ((engineTurn m)^[n] u) ∨ s.nblocks.toNat ≤ d + n ∧ Finished s h ((engineTurn m)^[n] u) := by
  induction n generalizing u d with
  | zero => exact .inl running
  | succ n ih =>
    obtain ⟨busy, unfaulted, done⟩ := running
    have left := done.left
    have further : d + (n + 1) = d + 1 + n := by omega
    rw [Function.iterate_succ_apply, further]
    obtain ⟨unfaulted', hash, ⟨-, busy', done'⟩ | ⟨last, idle⟩⟩ :=
      done.blockStep busy unfaulted (m := m) (by rw [done.curAddr]; omega)
    · exact ih ⟨busy', unfaulted', done'⟩
    · have finished : Finished s h (engineTurn m u) := ⟨idle, unfaulted', last ▸ hash⟩
      rw [finished.iterate]
      exact .inr ⟨by omega, finished⟩

/-- As many turns as the command has blocks end it. -/
theorem Running.finish (running : Running s h 0 u) (inside : s.srcAddr.toNat + 64 * s.nblocks.toNat ≤ m) :
    Finished s h ((engineTurn m)^[s.nblocks.toNat] u) := by
  rcases running.iterate inside s.nblocks.toNat with ⟨-, -, unfinished⟩ | ⟨-, finished⟩
  · have left := unfinished.left
    omega
  · exact finished

/-- A poll that sees BUSY = 1 is followed by the next (44_host_driver R243 step 5). -/
theorem pollUntilIdle_of_busy {n : Nat} (busy : ((engineTurn m)^[n] u).busy = true) (turns : List Nat) :
    pollUntilIdle m (n :: turns) u =
      pollUntilIdle m turns { (engineTurn m)^[n] u with lastRead := ((engineTurn m)^[n] u).statusWord } := by
  simp only [pollUntilIdle, driveAll_engine, driveRead_status]
  exact if_pos ((getLsbD_statusWord_zero _).trans busy)

/-- A poll that sees BUSY = 0 is the last. -/
theorem pollUntilIdle_of_idle {n : Nat} (idle : ((engineTurn m)^[n] u).busy = false) (turns : List Nat) :
    pollUntilIdle m (n :: turns) u =
      .ok (((engineTurn m)^[n] u).statusWord,
        { (engineTurn m)^[n] u with lastRead := ((engineTurn m)^[n] u).statusWord }) := by
  simp only [pollUntilIdle, driveAll_engine, driveRead_status]
  exact if_neg (Bool.eq_false_iff.1 ((getLsbD_statusWord_zero _).trans idle))

/-- Polls with at least as many turns among them as blocks are left see the end of the command, and no fault. -/
theorem Running.poll (running : Running s h d u) (inside : s.srcAddr.toNat + 64 * s.nblocks.toNat ≤ m) {turns : List Nat}
    (enough : s.nblocks.toNat ≤ d + turns.sum) :
    ∃ w t, pollUntilIdle m turns u = .ok (w, t) ∧ w.getLsbD 1 = false ∧ Finished s h t ∧ t.mem = u.mem := by
  induction turns generalizing u d with
  | nil =>
    have left := running.done.left
    rw [List.sum_nil] at enough
    omega
  | cons n turns ih =>
    have kept := iterate_engineTurn_keeps (engineTurn_mem m) n u
    rw [List.sum_cons] at enough
    rcases running.iterate inside n with running' | ⟨-, finished⟩
    · obtain ⟨w, t, polled, clear, finished, kept'⟩ := ih (running'.read _) (by omega)
      exact ⟨w, t, (pollUntilIdle_of_busy running'.busy turns).trans polled, clear, finished, kept'.trans kept⟩
    · exact ⟨_, _, pollUntilIdle_of_idle finished.busy turns, (getLsbD_statusWord_one _).trans finished.unfaulted,
        finished.read _, kept⟩

end

/-! ### One command -/

/-- Some blocks inside memory: their address and their number fit the registers (10_state R37, R38, 00_scope R5). -/
theorem fits_registers {a n : Nat} (pos : 1 ≤ n) (inside : a + 64 * n ≤ Config.memSize) :
    (BitVec.ofNat 32 a).toNat = a ∧ (BitVec.ofNat 32 n).toNat = n ∧ BitVec.ofNat 32 n ≠ 0 := by
  have bound := Config.memSize_le
  have count : (BitVec.ofNat 32 n).toNat = n := Nat.mod_eq_of_lt (by omega)
  refine ⟨Nat.mod_eq_of_lt (by omega), count, fun zero => ?_⟩
  rw [zero] at count
  exact absurd count (by simp; omega)

/-- The hash state a command starts with (43_compression_engine R205, R208). -/
def startHash (ctrl : Word) (h : HashState) : HashState := if ctrl.getLsbD 1 then h0 else h

section
variable {s : State} {a n : Nat} (pos : 1 ≤ n) (inside : a + 64 * n ≤ Config.memSize) {ctrl : Word}
include pos inside

/-- The three writes of a command start it in an idle unit. -/
theorem driveAll_commandEvents (hs : s.idle) (bit : ctrl.getLsbD 0 = true) :
    ∃ t, driveAll Config.memSize (commandEvents (BitVec.ofNat 32 a) (BitVec.ofNat 32 n) ctrl) s = .ok t ∧
      Running (s.withCommand (BitVec.ofNat 32 a) (BitVec.ofNat 32 n)) (startHash ctrl s.hash) 0 t ∧ t.mem = s.mem := by
  obtain ⟨hb, hf⟩ := hs
  obtain ⟨-, -, blocks⟩ := fits_registers pos inside
  let c := s.withCommand (BitVec.ofNat 32 a) (BitVec.ofNat 32 n)
  have first : writeReg .srcAddr (BitVec.ofNat 32 a) s = .next (s.withCommand (BitVec.ofNat 32 a) s.nblocks) :=
    congrArg _ (unlessBusy_of_not_busy _ hb)
  have second : writeReg .nblocks (BitVec.ofNat 32 n) (s.withCommand (BitVec.ofNat 32 a) s.nblocks) = .next c :=
    congrArg Host.Outcome.next (unlessBusy_of_not_busy (s := s.withCommand _ _) c hb)
  have third : takeEvent Config.memSize (.regWrite 0x000 32 ctrl) c =
      .next (c.started (startHash ctrl c.hash) c.schedule) := step_start (s := c) hb hf bit c.schedule
  refine ⟨c.started (startHash ctrl c.hash) c.schedule, ?_,
    ⟨busy_started blocks _ _, hf, .started blocks _ _⟩, rfl⟩
  exact ((driveAll_regWrite first).trans (driveAll_regWrite second)).trans (driveAll_cons third)

/-- A command that has ended over a list of bytes has folded their blocks. -/
theorem Finished.hashBlocks {bytes : List Byte} (held : HoldsBytes s.mem a bytes) (whole : bytes.length = 64 * n)
    {t : State} (finished : Finished (s.withCommand (BitVec.ofNat 32 a) (BitVec.ofNat 32 n)) (startHash ctrl s.hash) t) :
    t.hash = Machine.hashBlocks (startHash ctrl s.hash) (blocksOf bytes) := by
  obtain ⟨address, count, -⟩ := fits_registers pos inside
  refine finished.hash.trans ?_
  simp only [State.withCommand, address, count]
  exact held.compressBlocks whole _

end

/-- What the driver asks of a part: at least one block, inside memory, with enough turns among its polls. -/
def Part.Drivable (p : Part) : Prop := 1 ≤ p.blocks ∧ p.addr + 64 * p.blocks ≤ Config.memSize ∧ p.blocks ≤ p.turns.sum

/-- A command over one part of the message, whose bytes are in place: it ends without a fault, with the part's blocks folded
into STATE (44_host_driver R243 steps 2..6). -/
theorem driveCommand_ends {s : State} (hs : s.idle) {p : Part} (drivable : p.Drivable) {bytes : List Byte}
    (held : HoldsBytes s.mem p.addr bytes) (whole : bytes.length = 64 * p.blocks) {ctrl : Word}
    (bit : ctrl.getLsbD 0 = true) :
    ∃ t, driveCommand Config.memSize ctrl p s = .ok t ∧ t.idle ∧ t.mem = s.mem ∧
      t.hash = hashBlocks (startHash ctrl s.hash) (blocksOf bytes) := by
  obtain ⟨pos, inside, enough⟩ := drivable
  obtain ⟨address, count, -⟩ := fits_registers pos inside
  obtain ⟨u, begun, running, kept⟩ := driveAll_commandEvents pos inside hs bit
  obtain ⟨w, t, polled, clear, finished, kept'⟩ :=
    running.poll (m := Config.memSize) (turns := p.turns) (by simpa only [State.withCommand, address, count])
      (by simpa only [State.withCommand, count, Nat.zero_add])
  refine ⟨t, ?_, ⟨finished.busy, finished.unfaulted⟩, kept'.trans kept, finished.hashBlocks pos inside held whole⟩
  simp only [driveCommand, begun, polled, requireNoFault, clear]
  rfl

/-! ### The parts of a message -/

/-- Memory holds the bytes of every part at the part's address. -/
def HoldsParts (m : Memory) : List Part → List Byte → Prop
  | [], _ => True
  | p :: ps, bytes =>
    HoldsBytes m p.addr (bytes.take (64 * p.blocks)) ∧ HoldsParts m ps (bytes.drop (64 * p.blocks))

/-- The bytes of a part. -/
theorem length_take_part {p : Part} {ps : List Part} {bytes : List Byte}
    (whole : bytes.length = 64 * ((p :: ps).map (·.blocks)).sum) :
    (bytes.take (64 * p.blocks)).length = 64 * p.blocks ∧
    (bytes.drop (64 * p.blocks)).length = 64 * (ps.map (·.blocks)).sum := by
  rw [List.map_cons, List.sum_cons] at whole
  rw [List.length_take, List.length_drop]
  omega

/-- Two parts have no byte of memory in common (44_host_driver R243). -/
def Part.Apart (p q : Part) : Prop := p.addr + 64 * p.blocks ≤ q.addr ∨ q.addr + 64 * q.blocks ≤ p.addr

/-- Placing disjoint parts inside memory puts every part in place and leaves every byte outside them. -/
theorem driveAll_placeParts {ps : List Part} {bytes : List Byte} {s : State} (idle : s.busy = false)
    (canonical : Memory.wf s.mem = true) (whole : bytes.length = 64 * (ps.map (·.blocks)).sum)
    (inside : ∀ p ∈ ps, p.addr + 64 * p.blocks ≤ Config.memSize) (disjoint : ps.Pairwise Part.Apart) :
    ∃ m, driveAll Config.memSize (placeParts ps bytes) s = .ok { s with mem := m } ∧ HoldsParts m ps bytes ∧
      ∀ a, (∀ p ∈ ps, a < p.addr ∨ p.addr + 64 * p.blocks ≤ a) → Memory.read m a = Memory.read s.mem a := by
  induction ps generalizing bytes s with
  | nil => exact ⟨s.mem, rfl, trivial, fun _ _ => rfl⟩
  | cons p ps ih =>
    obtain ⟨insideFirst, insideRest⟩ := List.forall_mem_cons.1 inside
    obtain ⟨disjointFirst, disjointRest⟩ := List.pairwise_cons.1 disjoint
    obtain ⟨first, rest⟩ := length_take_part whole
    have placed := driveAll_placeEvents idle (first ▸ insideFirst)
    obtain ⟨m, placedRest, held, kept⟩ := ih (bytes := bytes.drop (64 * p.blocks))
      (s := { s with mem := Memory.writeBytes s.mem p.addr (bytes.take (64 * p.blocks)) }) idle
      (Memory.wf_writeBytes canonical _ _) rest insideRest disjointRest
    refine ⟨m, (driveAll_append placed).trans placedRest, ⟨fun k hk => ?_, held⟩, fun a outside => ?_⟩
    · rw [kept (p.addr + k) fun q hq => ?_]
      · exact holdsBytes_writeBytes canonical _ _ k hk
      · rcases disjointFirst q hq with before | behind <;> omega
    · obtain ⟨outsideFirst, outsideRest⟩ := List.forall_mem_cons.1 outside
      rw [kept a outsideRest, Memory.read_writeBytes_apart canonical (by rwa [first])]

/-- A command over the first of some parts, whose blocks are the first of the bytes. -/
theorem driveCommand_first {s : State} (hs : s.idle) {p : Part} {ps : List Part} {bytes : List Byte} (drivable : p.Drivable)
    (held : HoldsParts s.mem (p :: ps) bytes) (whole : bytes.length = 64 * ((p :: ps).map (·.blocks)).sum) {ctrl : Word}
    (bit : ctrl.getLsbD 0 = true) :
    ∃ t, driveCommand Config.memSize ctrl p s = .ok t ∧ t.idle ∧ HoldsParts t.mem ps (bytes.drop (64 * p.blocks)) ∧
      hashBlocks t.hash (blocksOf (bytes.drop (64 * p.blocks))) = hashBlocks (startHash ctrl s.hash) (blocksOf bytes) := by
  obtain ⟨heldFirst, heldRest⟩ := held
  obtain ⟨first, -⟩ := length_take_part whole
  obtain ⟨t, driven, idle, kept, hash⟩ := driveCommand_ends hs drivable heldFirst first bit
  refine ⟨t, driven, idle, kept ▸ heldRest, ?_⟩
  rw [hash, ← hashBlocks_append, ← blocksOf_append first, List.take_append_drop]

/-- The commands after the first carry the hash state through the blocks that are left (43_compression_engine R208). -/
theorem driveMore_ends {ps : List Part} {bytes : List Byte} {s : State} (hs : s.idle) (drivable : ∀ p ∈ ps, p.Drivable)
    (held : HoldsParts s.mem ps bytes) (whole : bytes.length = 64 * (ps.map (·.blocks)).sum) :
    ∃ t, driveMore Config.memSize ps s = .ok t ∧ t.idle ∧ t.hash = hashBlocks s.hash (blocksOf bytes) := by
  induction ps generalizing bytes s with
  | nil =>
    obtain rfl := List.length_eq_zero_iff.1 whole
    exact ⟨s, rfl, hs, rfl⟩
  | cons p ps ih =>
    obtain ⟨drivableFirst, drivableRest⟩ := List.forall_mem_cons.1 drivable
    obtain ⟨-, rest⟩ := length_take_part whole
    obtain ⟨t, driven, idle, held', hash⟩ := driveCommand_first hs drivableFirst held whole (ctrl := 1) rfl
    obtain ⟨u, drivenRest, idle', hash'⟩ := ih idle drivableRest held' rest
    exact ⟨u, by simp only [driveMore, driven, drivenRest], idle', hash'.trans hash⟩

theorem driveParts_ends {p : Part} {ps : List Part} {bytes : List Byte} {s : State} (hs : s.idle)
    (drivable : ∀ q ∈ p :: ps, q.Drivable) (held : HoldsParts s.mem (p :: ps) bytes)
    (whole : bytes.length = 64 * ((p :: ps).map (·.blocks)).sum) :
    ∃ t, driveParts Config.memSize p ps s = .ok t ∧ t.idle ∧ t.hash = hashBlocks h0 (blocksOf bytes) := by
  obtain ⟨drivableFirst, drivableRest⟩ := List.forall_mem_cons.1 drivable
  obtain ⟨-, rest⟩ := length_take_part whole
  obtain ⟨t, driven, idle, held', hash⟩ := driveCommand_first hs drivableFirst held whole (ctrl := 3) rfl
  obtain ⟨u, drivenRest, idle', hash'⟩ := driveMore_ends idle drivableRest held' rest
  exact ⟨u, by simp only [driveParts, driven, drivenRest], idle', hash'.trans hash⟩

/-- The host at work over disjoint parts of the padded message ends with ComputeHash (44_host_driver R240, R243). -/
theorem driveHash_ends {s : State} (hs : s.idle) (canonical : Memory.wf s.mem = true) {data : List Byte}
    (short : data.length < 2 ^ 61) {first : Part} {more : List Part}
    (count : ((first :: more).map (·.blocks)).sum = blockCount data.length)
    (drivable : ∀ p ∈ first :: more, p.Drivable) (disjoint : (first :: more).Pairwise Part.Apart) :
    ∃ d t, driveHash Config.memSize first more data s = .ok (d, t) ∧ computeHash data = .ok d ∧
      t.busy = false ∧ t.fault = false := by
  have whole : (padMessage data).length = 64 * ((first :: more).map (·.blocks)).sum := by rw [length_padMessage, count]
  have inside : ∀ p ∈ first :: more, p.addr + 64 * p.blocks ≤ Config.memSize := fun p hp =>
    let ⟨_, inside, _⟩ := drivable p hp
    inside
  obtain ⟨m, placed, held, -⟩ := driveAll_placeParts hs.1 canonical whole inside disjoint
  obtain ⟨u, driven, ⟨idle, unfaulted⟩, hash⟩ := driveParts_ends (s := { s with mem := m }) hs drivable held whole
  obtain ⟨x, read⟩ := driveReads_stateOffsets Config.memSize idle
  refine ⟨digest u.hash, { u with lastRead := x }, ?_, ?_, idle, unfaulted⟩
  · simp only [driveHash, if_neg (Nat.not_le.2 short), placed, driven, read]
    rfl
  · rw [computeHash_of_lt short, hash]

/-! ### One command as a schedule -/

/-- One poll and the reads of STATE0..7, once the command has ended. -/
theorem driveAll_pollAndRead (m : Nat) {s : State} (idle : s.busy = false) :
    ∃ x, driveAll m ([pollEvent] ++ readStateEvents) s = .ok { s with lastRead := x } := by
  obtain ⟨x, read⟩ := driveReads_stateOffsets m (s := { s with lastRead := s.statusWord }) idle
  have polled : takeEvent m pollEvent s = .next { s with lastRead := s.statusWord } := rfl
  exact ⟨x, (driveAll_cons polled).trans (driveAll_of_driveReads read)⟩

/-- The accesses of one command over a message at address a run to its end (44_host_driver R243). -/
theorem driveAll_hashEvents {s : State} (hs : s.idle) (canonical : Memory.wf s.mem = true) {a : Nat} {data : List Byte}
    (inside : a + 64 * blockCount data.length ≤ Config.memSize) :
    ∃ t, driveAll Config.memSize (hashEvents a data) s = .ok t ∧ t.idle ∧
      t.hash = hashBlocks h0 (blocksOf (padMessage data)) := by
  have whole := length_padMessage data
  have pos := blockCount_pos data.length
  obtain ⟨address, count, -⟩ := fits_registers pos inside
  obtain ⟨p, placed, hp, held⟩ : ∃ p, driveAll Config.memSize (placeEvents a (padMessage data)) s = .ok p ∧ p.idle ∧
      HoldsBytes p.mem a (padMessage data) :=
    ⟨_, driveAll_placeEvents hs.1 (whole ▸ inside), hs, holdsBytes_writeBytes canonical a _⟩
  obtain ⟨u, begun, running, -⟩ := driveAll_commandEvents pos inside hp (ctrl := 3) rfl
  have finished := running.finish (m := Config.memSize) (by simpa only [State.withCommand, address, count])
  simp only [State.withCommand, count] at finished
  obtain ⟨x, read⟩ := driveAll_pollAndRead Config.memSize finished.busy
  have ended := finished.read x
  refine ⟨_, ?_, ⟨ended.busy, ended.unfaulted⟩, ended.hashBlocks pos inside held whole⟩
  rw [hashEvents, List.append_assoc, List.append_assoc, List.append_assoc, driveAll_append placed, driveAll_append begun,
    driveAll_append (driveAll_engine _ _ u)]
  exact read

/-- Settles O59: the schedule is the host's accesses in one run, and the host at work drives its parts one after the other. -/
theorem driverComputesHash : Obligations.DriverComputesHash := by
  refine ⟨fun s a data hb hf canonical inside => ?_,
    fun s first more data hb hf canonical short count drivable disjoint => ?_⟩
  · obtain ⟨t, driven, ⟨idle, unfaulted⟩, hash⟩ := driveAll_hashEvents ⟨hb, hf⟩ canonical inside
    have short : data.length < 2 ^ 61 := by
      have := Config.memSize_le
      have := padded_length data.length
      omega
    exact ⟨_, _, run_of_driveAll driven, rfl, idle, unfaulted, computeHash_of_lt short, congrArg digest hash⟩
  · exact driveHash_ends ⟨hb, hf⟩ canonical short count drivable disjoint

end Sys2Proof.Machine
end

section
/-! PROOFS. The 96-word program on the instruction port (44_host_driver R248, 95_test_vectors P3): what its registers hold
before each quad-round step, and the host that writes K, the state and each block and reads the new state. -/

namespace Sys2Proof.Machine

/-! ### Vector registers written and instructions run one after the other -/

/-- t differs from s in the vector registers at most. -/
def SameButV (s t : State) : Prop := ∃ v, t = { s with v := v }

theorem SameButV.refl (s : State) : SameButV s s := ⟨s.v, rfl⟩

theorem SameButV.writeV (s : State) (r : VReg) (x : Vec) : SameButV s (s.writeV r x) := ⟨_, rfl⟩

theorem SameButV.trans {s t u : State} (first : SameButV s t) (second : SameButV t u) : SameButV s u := by
  obtain ⟨v, rfl⟩ := first
  obtain ⟨w, rfl⟩ := second
  exact ⟨w, rfl⟩

theorem SameButV.fault {s t : State} (same : SameButV s t) : t.fault = s.fault := by
  obtain ⟨v, rfl⟩ := same
  rfl

theorem writeV_writeV_same (s : State) (r : VReg) (x y : Vec) : (s.writeV r x).writeV r y = s.writeV r y := by
  simp only [State.writeV, Vector.set_set]

theorem execAll_append {is js : List Instr} {s t : State} (h : execAll is s = .next t) :
    execAll (is ++ js) s = execAll js t := by
  induction is generalizing s with
  | nil =>
    obtain rfl := Host.Outcome.next.inj h
    rfl
  | cons i is ih =>
    rw [execAll_cons (exec_eq_result i s)] at h
    rw [List.cons_append, execAll_cons (exec_eq_result i s), ih h]

/-- Instructions change the vector registers alone. -/
theorem execAll_sameButV {is : List Instr} {s t : State} (h : execAll is s = .next t) : SameButV s t := by
  induction is generalizing s with
  | nil =>
    obtain rfl := Host.Outcome.next.inj h
    exact .refl s
  | cons i is ih =>
    rw [execAll_cons (exec_eq_result i s)] at h
    exact (SameButV.writeV s _ _).trans (ih h)

/-- With FAULT = 0 the words of instructions written to INSTR run them (10_state R42). -/
theorem driveAll_portEvents (m : Nat) {is : List Instr} {s t : State} (hf : s.fault = false) (h : execAll is s = .next t) :
    driveAll m (portEvents is) s = .ok t := by
  induction is generalizing s with
  | nil =>
    obtain rfl := Host.Outcome.next.inj h
    rfl
  | cons i is ih =>
    rw [execAll_cons (exec_eq_result i s)] at h
    have written : writeReg .instr (encode i) s = .next (s.writeV i.rd (i.result s.readV)) :=
      (writeInstr_of_decode_ok hf (decodeOfEncode i)).trans (exec_eq_result i s)
    exact (driveAll_regWrite written).trans (ih hf h)

/-! ### The registers of the program -/

/-- What the program carries in vector registers (95_test_vectors P3): the scratch of CompressBlock, the snapshots of the two
halves it started with, and K. -/
inductive PortVar where
  | state0 | state1 | snapshot0 | snapshot1
  | msg (j : Fin 4)
  | const (g : Fin 16)

/-- The register of each (95_test_vectors P3). V4 and V5 hold nothing that is carried from step to step. -/
def PortVar.reg : PortVar → VReg
  | .state0 => 0
  | .state1 => 1
  | .snapshot0 => 2
  | .snapshot1 => 3
  | .msg j => ⟨6 + j.val, by omega⟩
  | .const g => ⟨16 + g.val, by omega⟩

/-- The value of each, with scratch x and snapshots y0 and y1. -/
def PortVar.value (y0 y1 : Vec) (x : Scratch) : PortVar → Vec
  | .state0 => x.state0
  | .state1 => x.state1
  | .snapshot0 => y0
  | .snapshot1 => y1
  | .msg j => x.msg[j.val]
  | .const g => kGroup g

/-- No two of them share a register. -/
theorem PortVar.reg_injective : Function.Injective PortVar.reg := by
  intro p q same
  have same : p.reg.val = q.reg.val := congrArg Fin.val same
  cases p <;> cases q <;> simp [PortVar.reg] at same ⊢ <;> omega

theorem PortVar.reg_ne_temp (p : PortVar) : p.reg ≠ 4 ∧ p.reg ≠ 5 := by
  cases p <;> simp [PortVar.reg, Fin.ext_iff] <;> omega

/-- The registers of the program hold scratch x, snapshots y0 and y1, and K. -/
def PortHolds (y0 y1 : Vec) (x : Scratch) (s : State) : Prop := ∀ p : PortVar, s.readV p.reg = p.value y0 y1 x

section
variable {y0 y1 : Vec} {x : Scratch} {s : State} (holds : PortHolds y0 y1 x s)
include holds

theorem PortHolds.writeTemp {r : VReg} (temp : r = 4 ∨ r = 5) (y : Vec) : PortHolds y0 y1 x (s.writeV r y) := by
  intro p
  obtain ⟨ne4, ne5⟩ := p.reg_ne_temp
  rcases temp with rfl | rfl
  · rw [readV_writeV_ne s y ne4, holds p]
  · rw [readV_writeV_ne s y ne5, holds p]

/-- A write to the register of p gives p a value and keeps the others. -/
theorem PortHolds.write {y0' y1' y : Vec} {x' : Scratch} (p : PortVar) (new : p.value y0' y1' x' = y)
    (others : ∀ q ≠ p, q.value y0' y1' x' = q.value y0 y1 x) : PortHolds y0' y1' x' (s.writeV p.reg y) := by
  intro q
  by_cases same : q = p
  · rw [same, readV_writeV_same, new]
  · rw [readV_writeV_ne s y fun reg => same (PortVar.reg_injective reg), holds q, others q same]

theorem PortHolds.writeState0 (y : Vec) : PortHolds y0 y1 { x with state0 := y } (s.writeV 0 y) :=
  holds.write .state0 rfl fun q other => by
    cases q with
    | state0 => exact absurd rfl other
    | _ => rfl

theorem PortHolds.writeState1 (y : Vec) : PortHolds y0 y1 { x with state1 := y } (s.writeV 1 y) :=
  holds.write .state1 rfl fun q other => by
    cases q with
    | state1 => exact absurd rfl other
    | _ => rfl

theorem PortHolds.writeSnapshot0 (y : Vec) : PortHolds y y1 x (s.writeV 2 y) :=
  holds.write .snapshot0 rfl fun q other => by
    cases q with
    | snapshot0 => exact absurd rfl other
    | _ => rfl

theorem PortHolds.writeSnapshot1 (y : Vec) : PortHolds y0 y x (s.writeV 3 y) :=
  holds.write .snapshot1 rfl fun q other => by
    cases q with
    | snapshot1 => exact absurd rfl other
    | _ => rfl

theorem PortHolds.writeMsg (j : Fin 4) (y : Vec) :
    PortHolds y0 y1 { x with msg := x.msg.set j.val y } (s.writeV (PortVar.msg j).reg y) :=
  holds.write (.msg j) (Vector.getElem_set_self _) fun q other => by
    cases q with
    | msg k => exact Vector.getElem_set_ne j.isLt k.isLt fun same => other (congrArg PortVar.msg (Fin.ext same.symm))
    | _ => rfl

end

/-! ### One step -/

/-- The register of the vector k places after the one that step i consumes (95_test_vectors P3). -/
def msgReg (i : Fin 16) (k : Nat) : VReg := (PortVar.msg ⟨(i.val % 4 + k) % 4, Nat.mod_lt _ (by decide)⟩).reg

/-- The instructions of step i that expand the schedule (95_test_vectors P3). -/
def portExpand (i : Fin 16) : List Instr :=
  if i.val < 12 then [.sha256su0 (msgReg i 0) (msgReg i 1), .sha256su1 (msgReg i 0) (msgReg i 2) (msgReg i 3)] else []

theorem portStep_eq : ∀ i : Fin 16, portStep i =
    .add 4 (msgReg i 0) (PortVar.const i).reg :: (portExpand i ++ [.mov 5 0, .sha256h 0 1 4, .sha256h2 1 5 4]) := by
  decide

theorem msgReg_zero (i : Fin 16) : msgReg i 0 = (PortVar.msg ⟨i.val % 4, Nat.mod_lt _ (by decide)⟩).reg := by
  simp [msgReg]

theorem msgReg_zero_ne (i : Fin 16) : msgReg i 2 ≠ msgReg i 0 ∧ msgReg i 3 ≠ msgReg i 0 := by
  revert i
  decide

section
variable {y0 y1 : Vec} {x : Scratch} {s : State} (holds : PortHolds y0 y1 x s) (i : Fin 16)
include holds

theorem PortHolds.readV_consumed : s.readV (msgReg i 0) = x.msg[i.val % 4] := by
  rw [msgReg_zero]
  exact holds (.msg _)

/-- The schedule instructions of step i expand msg_(i mod 4) in place and leave V4. -/
theorem PortHolds.expand : ∃ t, execAll (portExpand i) s = .next t ∧
    PortHolds y0 y1 { x with msg := Machine.expand i x.msg } t ∧ t.readV 4 = s.readV 4 := by
  by_cases early : i.val < 12
  · have next (k : Nat) : s.readV (msgReg i k) = x.msg[(i.val % 4 + k) % 4]'(Nat.mod_lt _ (by decide)) := holds (.msg _)
    obtain ⟨ne2, ne3⟩ := msgReg_zero_ne i
    have run : execAll (portExpand i) s = .next (s.writeV (msgReg i 0)
        (su1 (su0 (s.readV (msgReg i 0)) (s.readV (msgReg i 1))) (s.readV (msgReg i 2)) (s.readV (msgReg i 3)))) := by
      rw [portExpand, if_pos early, execAll_cons (exec_eq_result _ _), execAll_cons (exec_eq_result _ _)]
      simp only [execAll, Instr.rd, Instr.result, readV_writeV_same, readV_writeV_ne _ _ ne2, readV_writeV_ne _ _ ne3,
        writeV_writeV_same]
    have written := holds.writeMsg ⟨i.val % 4, Nat.mod_lt _ (by decide)⟩
      (su1 (su0 x.msg[i.val % 4] x.msg[(i.val % 4 + 1) % 4]) x.msg[(i.val % 4 + 2) % 4] x.msg[(i.val % 4 + 3) % 4])
    rw [← msgReg_zero] at written
    refine ⟨_, run, ?_, readV_writeV_ne _ _ (PortVar.reg_ne_temp _).1.symm⟩
    rw [holds.readV_consumed, next 1, next 2, next 3, Machine.expand, if_pos early]
    exact written
  · rw [portExpand, Machine.expand, if_neg early, if_neg early]
    exact ⟨s, rfl, holds, rfl⟩

/-- The instructions of step i are the quad-round step i of CompressBlock (43_compression_engine R203, 95_test_vectors P3). -/
theorem PortHolds.step : ∃ t, execAll (portStep i) s = .next t ∧ PortHolds y0 y1 (quadRound x i) t := by
  have added := holds.writeTemp (r := 4) (.inl rfl) (vecAdd (s.readV (msgReg i 0)) (s.readV (PortVar.const i).reg))
  obtain ⟨u, expanded, holds', kept⟩ := added.expand i
  have wk : u.readV 4 = vecAdd x.msg[i.val % 4] (kGroup i) := by
    rw [kept, readV_writeV_same, holds.readV_consumed, holds (.const i)]
    rfl
  have old0 : u.readV 0 = x.state0 := holds' .state0
  have old1 : u.readV 1 = x.state1 := holds' .state1
  have snapshot := execAll_snapshotStep (p := 0) (q := 1) (u := 5) (k := 4) u (by decide) (by decide) (by decide)
    (by decide) (by decide)
  rw [wk, old0, old1] at snapshot
  refine ⟨_, ?_, ((holds'.writeTemp (r := 5) (.inr rfl) x.state0).writeState0 _).writeState1 _⟩
  rw [portStep_eq, execAll_cons (exec_eq_result _ _)]
  exact (execAll_append expanded).trans snapshot

end

/-- Any steps one after the other are the same quad-round steps. -/
theorem PortHolds.steps {y0 y1 : Vec} {x : Scratch} {s : State} (holds : PortHolds y0 y1 x s) (is : List (Fin 16)) :
    ∃ t, execAll (is.flatMap portStep) s = .next t ∧ PortHolds y0 y1 (is.foldl quadRound x) t := by
  induction is generalizing x s with
  | nil => exact ⟨s, rfl, holds⟩
  | cons i is ih =>
    obtain ⟨u, first, holds'⟩ := holds.step i
    obtain ⟨t, rest, holds''⟩ := ih holds'
    exact ⟨t, (execAll_append first).trans rest, holds''⟩

/-! ### The program -/

/-- Between blocks: the chaining value in V0, V1 and K in V16..V31 (44_host_driver R248). -/
structure PortReady (h : HashState) (s : State) : Prop where
  state0 : s.readV 0 = state0Of h
  state1 : s.readV 1 = state1Of h
  const : ∀ g : Fin 16, s.readV (PortVar.const g).reg = kGroup g

section
variable {y0 y1 : Vec} {x : Scratch} {s : State} (holds : PortHolds y0 y1 x s)
include holds

/-- REV32 of the little-endian lanes of a block gives its schedule vector (20_memory R72). -/
theorem PortHolds.exec_rev32 {b : Block} {j : Fin 4} (lanes : x.msg[j.val] = leVec b j) :
    exec (.rev32 (PortVar.msg j).reg (PortVar.msg j).reg) s = .next (s.writeV (PortVar.msg j).reg (blockVec b j)) := by
  have value : s.readV (PortVar.msg j).reg = leVec b j := (holds (.msg j)).trans lanes
  rw [exec_eq_result, Instr.result, value, (rev32OfLittleEndianLoad b j).2, Instr.rd]

theorem PortHolds.exec_snapshot0 : exec (.mov 2 0) s = .next (s.writeV 2 x.state0) := by
  have value : s.readV 0 = x.state0 := holds .state0
  rw [exec_mov, value]

theorem PortHolds.exec_snapshot1 : exec (.mov 3 1) s = .next (s.writeV 3 x.state1) := by
  have value : s.readV 1 = x.state1 := holds .state1
  rw [exec_mov, value]

end

/-- Before the sixteen steps: the block's lanes reversed into its words, and the two halves kept (95_test_vectors P3). -/
theorem PortReady.begin {h : HashState} {s : State} (ready : PortReady h s) {b : Block}
    (block : ∀ j : Fin 4, s.readV (PortVar.msg j).reg = leVec b j) :
    ∃ t, execAll [.rev32 6 6, .rev32 7 7, .rev32 8 8, .rev32 9 9, .mov 2 0, .mov 3 1] s = .next t ∧
      PortHolds (state0Of h) (state1Of h) ⟨blockMsg b, state0Of h, state1Of h⟩ t := by
  have loaded : PortHolds (s.readV 2) (s.readV 3)
      ⟨#v[leVec b 0, leVec b 1, leVec b 2, leVec b 3], state0Of h, state1Of h⟩ s := fun p =>
    match p with
    | .state0 => ready.state0
    | .state1 => ready.state1
    | .snapshot0 | .snapshot1 => rfl
    | .msg 0 => block 0
    | .msg 1 => block 1
    | .msg 2 => block 2
    | .msg 3 => block 3
    | .const g => ready.const g
  have rev0 := loaded.writeMsg 0 (blockVec b 0)
  have rev1 := rev0.writeMsg 1 (blockVec b 1)
  have rev2 := rev1.writeMsg 2 (blockVec b 2)
  have rev3 := rev2.writeMsg 3 (blockVec b 3)
  have kept0 := rev3.writeSnapshot0 (state0Of h)
  refine ⟨_, ?_, kept0.writeSnapshot1 (state1Of h)⟩
  exact (execAll_cons (loaded.exec_rev32 (j := 0) rfl)).trans <| (execAll_cons (rev0.exec_rev32 (j := 1) rfl)).trans <|
    (execAll_cons (rev1.exec_rev32 (j := 2) rfl)).trans <| (execAll_cons (rev2.exec_rev32 (j := 3) rfl)).trans <|
    (execAll_cons rev3.exec_snapshot0).trans (execAll_cons kept0.exec_snapshot1)

/-- After the sixteen steps the state the block started with is added back (43_compression_engine R203, 95_test_vectors P3). -/
theorem PortHolds.finish {h : HashState} {x : Scratch} {s : State} (holds : PortHolds (state0Of h) (state1Of h) x s) :
    ∃ t, execAll [.add 0 0 2, .add 1 1 3] s = .next t ∧
      PortReady (ofHalves (vecAdd x.state0 (state0Of h)) (vecAdd x.state1 (state1Of h))) t := by
  have added0 := holds.writeState0 (vecAdd x.state0 (state0Of h))
  have added1 := added0.writeState1 (vecAdd x.state1 (state1Of h))
  have first : exec (.add 0 0 2) s = .next (s.writeV 0 (vecAdd x.state0 (state0Of h))) :=
    congrArg₂ (fun y z => Host.Outcome.next (s.writeV 0 (vecAdd y z))) (holds .state0) (holds .snapshot0)
  have second : exec (.add 1 1 3) (s.writeV 0 (vecAdd x.state0 (state0Of h))) = .next _ :=
    congrArg₂ (fun y z => Host.Outcome.next (State.writeV _ 1 (vecAdd y z))) (added0 .state1) (added0 .snapshot1)
  exact ⟨_, (execAll_cons first).trans (execAll_cons second), added1 .state0, added1 .state1, fun g => added1 (.const g)⟩

/-- The program leaves CompressBlock of the block, ready for the next (44_host_driver R248). -/
theorem PortReady.program {h : HashState} {s : State} (ready : PortReady h s) {b : Block}
    (block : ∀ j : Fin 4, s.readV (PortVar.msg j).reg = leVec b j) :
    ∃ t, execAll portProgram s = .next t ∧ PortReady (compressBlock h b) t := by
  obtain ⟨u, first, holds⟩ := ready.begin block
  obtain ⟨w, middle, holds'⟩ := holds.steps (List.finRange 16)
  obtain ⟨t, last, ready'⟩ := holds'.finish
  refine ⟨t, ?_, ready'⟩
  rw [portProgram, List.append_assoc, execAll_append first, execAll_append middle, last]

/-! ### The host at the port -/

theorem ofHalves_state0Of_state1Of (h : HashState) : ofHalves (state0Of h) (state1Of h) = h := by
  ext k hk
  match k with
  | 0 | 1 | 2 | 3 | 4 | 5 | 6 | 7 => rfl

/-- The four writes of a vector register through the VREG window, a lane each (10_state R44). -/
theorem driveAll_vregWriteEvents (m : Nat) (r : VReg) (x : Vec) (s : State) :
    driveAll m (vregWriteEvents r.val x) s = .ok (s.writeV r x) := by
  have lane (e : Fin 4) (y : Word) (es : List Event) (t : State) :
      driveAll m (.regWrite (BlockReg.vreg r e).offset 32 y :: es) t =
        driveAll m es (t.writeV r ((t.readV r).setElem e y)) := driveAll_regWrite rfl
  refine ((lane 0 x.l0 _ s).trans ((lane 1 x.l1 _ _).trans ((lane 2 x.l2 _ _).trans (lane 3 x.l3 _ _)))).trans ?_
  simp only [driveAll_nil, readV_writeV_same, writeV_writeV_same, Vec.setElem]

/-- Vector registers written one after the other. -/
def State.writeVs {ι : Type} (s : State) (reg : ι → VReg) (val : ι → Vec) (is : List ι) : State :=
  is.foldl (fun s i => s.writeV (reg i) (val i)) s

theorem SameButV.writeVs {ι : Type} (s : State) (reg : ι → VReg) (val : ι → Vec) (is : List ι) :
    SameButV s (s.writeVs reg val is) := by
  induction is generalizing s with
  | nil => exact .refl s
  | cons i is ih => exact (SameButV.writeV s _ _).trans (ih _)

theorem driveAll_vregWrites (m : Nat) {ι : Type} (reg : ι → VReg) (val : ι → Vec) (is : List ι) (s : State) :
    driveAll m (is.flatMap fun i => vregWriteEvents (reg i).val (val i)) s = .ok (s.writeVs reg val is) := by
  induction is generalizing s with
  | nil => rfl
  | cons i is ih =>
    rw [List.flatMap_cons, driveAll_append (driveAll_vregWriteEvents m (reg i) (val i) s), ih]
    rfl

theorem readV_writeVs_apart {ι : Type} {reg : ι → VReg} {q : VReg} (apart : ∀ i, q ≠ reg i) (val : ι → Vec)
    (is : List ι) (s : State) : (s.writeVs reg val is).readV q = s.readV q := by
  induction is generalizing s with
  | nil => rfl
  | cons i is ih => exact (ih _).trans (readV_writeV_ne s _ (apart i))

theorem readV_writeVs {ι : Type} {reg : ι → VReg} (distinct : Function.Injective reg) (val : ι → Vec) {is : List ι}
    {i : ι} (listed : i ∈ is) (s : State) : (s.writeVs reg val is).readV (reg i) = val i := by
  induction is using List.reverseRecOn with
  | nil => simp at listed
  | append_singleton is j ih =>
    have last : s.writeVs reg val (is ++ [j]) = (s.writeVs reg val is).writeV (reg j) (val j) := by
      simp [State.writeVs]
    rw [last]
    by_cases same : i = j
    · rw [same, readV_writeV_same]
    · rw [readV_writeV_ne _ _ fun reg => same (distinct reg)]
      exact ih (by simpa [same] using listed)

/-- Writing a block and then the program's words compresses it (44_host_driver R248). -/
theorem PortReady.block {h : HashState} {s : State} (ready : PortReady h s) (hf : s.fault = false) (b : Block) :
    ∃ t, driveAll Config.memSize (portBlockEvents b ++ portEvents portProgram) s = .ok t ∧
      PortReady (compressBlock h b) t ∧ SameButV s t := by
  let u := s.writeVs (fun j => (PortVar.msg j).reg) (leVec b) (List.finRange 4)
  have written : driveAll Config.memSize (portBlockEvents b) s = .ok u :=
    driveAll_vregWrites _ (fun j => (PortVar.msg j).reg) (leVec b) (List.finRange 4) s
  have same : SameButV s u := .writeVs s _ _ _
  have apart (p : PortVar) (other : ∀ j, p ≠ .msg j) : u.readV p.reg = s.readV p.reg :=
    readV_writeVs_apart (fun j reg => other j (PortVar.reg_injective reg)) _ _ s
  have loaded (j : Fin 4) : u.readV (PortVar.msg j).reg = leVec b j :=
    readV_writeVs (fun j k reg => by simpa using PortVar.reg_injective reg) _ (List.mem_finRange j) s
  have ready' : PortReady h u :=
    ⟨(apart .state0 (by simp)).trans ready.state0, (apart .state1 (by simp)).trans ready.state1,
      fun g => (apart (.const g) (by simp)).trans (ready.const g)⟩
  obtain ⟨t, run, ready''⟩ := ready'.program loaded
  refine ⟨t, ?_, ready'', same.trans (execAll_sameButV run)⟩
  rw [driveAll_append written, driveAll_portEvents _ (same.fault.trans hf) run]

/-- The chaining value is carried in V0 and V1 from block to block. -/
theorem PortReady.blocks {h : HashState} {s : State} (ready : PortReady h s) (hf : s.fault = false) (bs : List Block) :
    ∃ t, drivePortBlocks Config.memSize bs s = .ok t ∧ PortReady (bs.foldl compressBlock h) t ∧ SameButV s t := by
  induction bs generalizing h s with
  | nil => exact ⟨s, rfl, ready, .refl s⟩
  | cons b bs ih =>
    obtain ⟨u, first, ready', same⟩ := ready.block hf b
    obtain ⟨t, rest, ready'', same'⟩ := ih ready' (same.fault.trans hf)
    exact ⟨t, by simp only [drivePortBlocks, first, rest], ready'', same.trans same'⟩

/-- Writing K and a chaining value makes the port ready (44_host_driver R248). -/
theorem driveAll_portSetup (h : HashState) (s : State) :
    ∃ t, driveAll Config.memSize (portConstantEvents ++ portStateEvents h) s = .ok t ∧ PortReady h t ∧ SameButV s t := by
  let u := s.writeVs (fun g => (PortVar.const g).reg) kGroup (List.finRange 16)
  have constants : driveAll Config.memSize portConstantEvents s = .ok u :=
    driveAll_vregWrites _ (fun g => (PortVar.const g).reg) kGroup (List.finRange 16) s
  have half0 := driveAll_vregWriteEvents Config.memSize 0 (state0Of h) u
  have half1 := driveAll_vregWriteEvents Config.memSize 1 (state1Of h) (u.writeV 0 (state0Of h))
  have loaded (g : Fin 16) : u.readV (PortVar.const g).reg = kGroup g :=
    readV_writeVs (fun g k reg => by simpa using PortVar.reg_injective reg) _ (List.mem_finRange g) s
  have apart0 (g : Fin 16) : (PortVar.const g).reg ≠ 0 := fun reg => by cases PortVar.reg_injective (a₂ := .state0) reg
  have apart1 (g : Fin 16) : (PortVar.const g).reg ≠ 1 := fun reg => by cases PortVar.reg_injective (a₂ := .state1) reg
  refine ⟨(u.writeV 0 (state0Of h)).writeV 1 (state1Of h), ?_, ⟨?_, readV_writeV_same .., fun g => ?_⟩, ?_⟩
  · rw [driveAll_append constants]
    exact (driveAll_append half0).trans half1
  · rw [readV_writeV_ne _ _ (by decide), readV_writeV_same]
  · rw [readV_writeV_ne _ _ (apart1 g), readV_writeV_ne _ _ (apart0 g), loaded]
  · exact ((SameButV.writeVs s _ _ _).trans (.writeV ..)).trans (.writeV ..)

/-- The reads of V0 and V1 return the words of the chaining value in order. -/
theorem PortReady.read {h : HashState} {s : State} (ready : PortReady h s) :
    ∃ y, driveReads Config.memSize portResultOffsets s = .ok (h.toList, { s with lastRead := y }) := by
  have word (k : Fin 8) (y : Word) :
      readReg (.vreg ⟨k.val / 4, by omega⟩ ⟨k.val % 4, by omega⟩) { s with lastRead := y } =
        { s with lastRead := h[k.val] } := by
    have lane : (s.readV ⟨k.val / 4, by omega⟩).elem ⟨k.val % 4, by omega⟩ = h[k.val] := by
      match k with
      | 0 | 1 | 2 | 3 => exact congrArg (Vec.elem · _) ready.state0
      | 4 | 5 | 6 | 7 => exact congrArg (Vec.elem · _) ready.state1
    rw [← lane]
    rfl
  rw [← map_finRange_getElem]
  exact driveReads_map Config.memSize word (List.finRange 8) s.lastRead

/-- Settles O60: the program takes the port from one chaining value to the next, and the host at work runs it block by
block. -/
theorem portCompressesBlock : Obligations.PortCompressesBlock := by
  refine ⟨fun s h b hf half0 half1 lanes const => ?_, fun s h bs hf => ?_⟩
  · have ready : PortReady h s := ⟨half0, half1, const⟩
    obtain ⟨t, run, ready'⟩ := ready.program lanes
    have driven := run_of_driveAll (driveAll_portEvents Config.memSize hf run)
    have length : (portEvents portProgram).length = portProgram.length := List.length_map _
    refine ⟨_, length ▸ driven, ?_⟩
    have halves : ofHalves (t.readV 0) (t.readV 1) = compressBlock h b := by
      rw [ready'.state0, ready'.state1, ofHalves_state0Of_state1Of]
    exact halves
  · obtain ⟨u, setup, ready, same⟩ := driveAll_portSetup h s
    obtain ⟨w, driven, ready', same'⟩ := ready.blocks (same.fault.trans hf) bs
    obtain ⟨y, read⟩ := ready'.read
    have worked : drivePort Config.memSize h bs s = .ok ((bs.foldl compressBlock h).toList, { w with lastRead := y }) := by
      simp only [drivePort, setup, driven, read]
    obtain ⟨v, rfl⟩ := same.trans same'
    exact ⟨_, worked, rfl, rfl, hf⟩

end Sys2Proof.Machine
end

section
/-! PROOFS. Faults (60_exceptions R260..R265, R273): what raises one, what raising one leaves, and what each step does to the
fault record. -/

namespace Sys2Proof.Machine

/-! ### Instructions and rest -/

/-- Settles O21: whatever its operands, an instruction answers with Rd written. -/
theorem everyInstructionCompletes : Obligations.EveryInstructionCompletes := by
  intro i s
  obtain ⟨x, run⟩ := exec_writes_rd i s
  exact ⟨_, run⟩

/-- Settles O51: with nothing scheduled the engine has its turn, which is not enabled. -/
theorem idleUnitRests : Obligations.IdleUnitRests := by
  intro s empty idle
  rw [step_of_nil empty, engineTurn_of_disabled _ (.inl idle)]

/-! ### Raising a fault -/

/-- STATUS right after a fault: FAULT is 1, BUSY is 0 and CAUSE is the cause raised. -/
theorem statusWord_raiseFault (c : Cause) (u : Word) (s : State) :
    (raiseFault c u s).statusWord = 0#24 ++ c.code ++ 0#2 ++ 1#1 ++ 0#1 := by
  rw [State.statusWord, raiseFault_cause, raiseFault_fault, raiseFault_busy]
  rfl

/-- Raising a fault does not look at message memory (60_exceptions R262). -/
theorem raiseFault_withMem (c : Cause) (u : Word) (s : State) (m : Memory) :
    raiseFault c u { s with mem := m } = { raiseFault c u s with mem := m } := by
  cases hb : s.busy <;> simp [raiseFault, hb]

theorem decode_error_of_not_ok {w : Word} (noRow : ∀ i, decode w ≠ .ok i) : decode w = .error (.undefined w) := by
  cases h : decode w with
  | ok i => exact absurd h (noRow i)
  | error e => rw [eq_undefined_of_decode_error h]

/-- Settles O25: the port raises the fault, whose STATUS is known and which keeps the vector registers. -/
theorem undefinedWordFault : Obligations.UndefinedWordFault := by
  intro s w hf noRow
  have raised := writeInstr_of_decode_error hf (decode_error_of_not_ok noRow)
  refine ⟨_, (step_regWrite .instr w s).trans raised, rfl, fun r => ?_, ?_, raiseFault_faultInfo _ w s⟩
  · simp only [State.readV, raiseFault_v]
  · rw [statusWord_raiseFault]
    rfl

/-- Settles O43: the turn raises the fault, in this memory as in any other. -/
theorem blockOutOfRange : Obligations.BlockOutOfRange := by
  intro s m hb hf outside
  have raised := engineTurn_of_outside hb hf outside
  have raised' := engineTurn_of_outside (s := { s with mem := m }) hb hf outside
  refine ⟨_, congrArg Host.Outcome.next raised, ?_, ?_, raiseFault_v _ _ s, raiseFault_mem _ _ s, ?_⟩
  · rw [statusWord_raiseFault]
    rfl
  · rw [raiseFault_faultInfo, BitVec.toNat_ofNat]
  · exact congrArg Host.Outcome.next (raised'.trans (raiseFault_withMem ..))

/-- Settles O26: the fields by the lemmas on `raiseFault`; afterwards FAULT = 1 shuts CTRL, INSTR and the engine, and BUSY = 0
opens the other registers. -/
theorem faultEntry : Obligations.FaultEntry := by
  intro c u s t
  have hf : t.fault = true := raiseFault_fault c u s
  have hb : t.busy = false := raiseFault_busy c u s
  have write (r : BlockReg) {x : Word} {t' : State} (h : writeReg r x t = .next t') :
      step (offer (.regWrite r.offset 32 x) t) = .next t' := (step_regWrite r x t).trans h
  have ungated (t' : State) : Host.Outcome.next (unlessBusy t' t) = (.next t' : Host.Outcome State Fault Refusal) :=
    congrArg _ (unlessBusy_of_not_busy t' hb)
  refine ⟨hf, raiseFault_cause c u s, raiseFault_faultInfo c u s, hb, fun idle => ?_, raiseFault_v c u s,
    raiseFault_srcAddr c u s, raiseFault_nblocks c u s, raiseFault_curAddr c u s, raiseFault_remain c u s,
    raiseFault_mem c u s, raiseFault_schedule c u s, raiseFault_lastRead c u s, raiseFault_lastByte c u s,
    raiseFault_withMem c u s, congrArg _ (engineTurn_of_disabled _ (.inl hb)), fun x =>
    ⟨?_, ?_, ?_, ?_, step_regRead .srcAddr t, step_regRead .nblocks t, fun k => ⟨?_, ?_⟩,
    fun r e => ⟨?_, step_regRead (.vreg r e) t⟩⟩⟩
  · exact (raiseFault_hash c u s).trans (by simp [idle])
  · exact write .ctrl (congrArg _ (writeCtrl_of_fault x hf))
  · exact write .instr (writeInstr_of_fault x hf)
  · exact write .srcAddr (ungated _)
  · exact write .nblocks (ungated _)
  · exact write (.state k) (ungated _)
  · exact (step_regRead (.state k) t).trans (by simp [readReg, hb])
  · exact write (.vreg r e) rfl

/-! ### The fault record along a step -/

/-- FAULT, CAUSE and FAULT_INFO are the same in t as in s. -/
structure SameRecord (s t : State) : Prop where
  fault : t.fault = s.fault
  cause : t.cause = s.cause
  info : t.faultInfo = s.faultInfo

/-- The write of a register keeps the fault record, or it is an INSTR write that raises UNDEFINED_INSTRUCTION with the word
written. -/
theorem writeReg_record {r : BlockReg} {x : Word} {s t : State} (h : writeReg r x s = .next t) :
    SameRecord s t ∨ (r = .instr ∧ s.fault = false ∧ t = raiseFault .undefinedInstruction x s) := by
  cases r with
  | instr =>
    rcases writeInstr_cases h with ⟨-, rfl⟩ | ⟨-, i, -, run⟩ | ⟨hf, u, error, raised⟩
    · exact .inl ⟨rfl, rfl, rfl⟩
    · obtain ⟨y, hy⟩ := exec_writes_rd i s
      obtain rfl : s.writeV i.rd y = t := Host.Outcome.next.inj (hy.symm.trans run)
      exact .inl ⟨rfl, rfl, rfl⟩
    · obtain rfl : u = x := DecodeError.undefined.inj (eq_undefined_of_decode_error error)
      exact .inr ⟨rfl, hf, raised⟩
  | _ => cases writeReg_effect h <;> exact .inl ⟨rfl, rfl, rfl⟩

/-- The engine's turn keeps the fault record, or it raises BLOCK_OUT_OF_RANGE. -/
theorem engineTurn_record (m : Nat) (s : State) :
    SameRecord s (engineTurn m s) ∨
    (s.fault = false ∧ engineTurn m s = raiseFault .blockOutOfRange (BitVec.ofNat 32 s.curAddr) s) := by
  rcases engineTurn_cases m s with ⟨-, rest⟩ | ⟨-, -, -, block⟩ | ⟨-, hf, -, raised⟩
  · exact .inl (rest.symm ▸ ⟨rfl, rfl, rfl⟩)
  · exact .inl (block.symm ▸ ⟨rfl, rfl, rfl⟩)
  · exact .inr ⟨hf, raised⟩

/-- What a step from s to t does to the fault record. -/
inductive RecordEffect (s t : State) : Prop where
  | kept (same : SameRecord s t)
  | cleared (rest : List Event) (scheduled : s.schedule = .reset :: rest) (fault : t.fault = false)
  | undefined (w : Word) (rest : List Event) (hf : s.fault = false) (scheduled : s.schedule = .regWrite 0x014 32 w :: rest)
      (cause : t.cause = .undefinedInstruction) (info : t.faultInfo = w)
  | outOfRange (hf : s.fault = false) (turn : s.schedule = [] ∨ ∃ rest, s.schedule = .engine :: rest)
      (cause : t.cause = .blockOutOfRange) (info : t.faultInfo = BitVec.ofNat 32 s.curAddr)

/-- The engine's turn, whatever it leaves in the schedule, where the schedule of s gives it one. -/
theorem RecordEffect.engineTurn (m : Nat) {s : State} (es : List Event)
    (turn : s.schedule = [] ∨ ∃ rest, s.schedule = .engine :: rest) :
    RecordEffect s (engineTurn m { s with schedule := es }) := by
  rcases engineTurn_record m { s with schedule := es } with ⟨fault, cause, info⟩ | ⟨hf, raised⟩
  · exact .kept ⟨fault, cause, info⟩
  · rw [raised]
    exact .outOfRange hf turn (raiseFault_cause ..) (raiseFault_faultInfo ..)

/-- Every step that answers has one of these effects on the fault record. -/
theorem step_recordEffect {s t : State} (h : step s = .next t) : RecordEffect s t := by
  rcases stepWith_cases h with ⟨empty, rfl⟩ | ⟨e, rest, scheduled, taken⟩
  · exact .engineTurn _ s.schedule (.inl empty)
  · cases e with
    | regWrite off width x =>
      obtain ⟨r, reached, written⟩ := hostWrite_cases taken
      obtain ⟨rfl, rfl⟩ := regAt_eq_ok_iff.1 reached
      rcases writeReg_record written with ⟨fault, cause, info⟩ | ⟨rfl, hf, rfl⟩
      · exact .kept ⟨fault, cause, info⟩
      · exact .undefined x rest hf scheduled (raiseFault_cause ..) (raiseFault_faultInfo ..)
    | engine => exact Host.Outcome.next.inj taken ▸ .engineTurn _ rest (.inr ⟨rest, scheduled⟩)
    | reset => exact Host.Outcome.next.inj taken ▸ .cleared rest scheduled (takeReset_fault _)
    | regRead | memRead | memWrite => cases takeEvent_effect taken; exact .kept ⟨rfl, rfl, rfl⟩

/-- With FAULT = 1 a step keeps the fault record or is a reset (60_exceptions R264, R265). -/
theorem sameRecord_or_reset {s t : State} (hf : s.fault = true) (h : step s = .next t) :
    SameRecord s t ∨ ∃ rest, s.schedule = .reset :: rest := by
  cases step_recordEffect h with
  | kept same => exact .inl same
  | cleared rest scheduled => exact .inr ⟨rest, scheduled⟩
  | undefined _ _ unfaulted | outOfRange unfaulted => simp [hf] at unfaulted

/-- Settles O27: of the effects on the record only the two faults set FAULT, and from FAULT = 1 neither occurs. -/
theorem firstFaultIsRecorded : Obligations.FirstFaultIsRecorded := by
  refine ⟨fun s t hf h raised => ?_, fun s t hf noReset h => ?_⟩
  · cases step_recordEffect h with
    | kept same => simp [same.fault, hf] at raised
    | cleared _ _ fault => simp [fault] at raised
    | undefined w rest _ scheduled cause info => exact .inl ⟨cause, w, rest, scheduled, info⟩
    | outOfRange _ turn cause info => exact .inr ⟨cause, turn, info⟩
  · rcases sameRecord_or_reset hf h with ⟨fault, cause, info⟩ | ⟨rest, reset⟩
    · exact ⟨fault.trans hf, cause, info⟩
    · exact absurd reset (noReset rest)

/-! ### Reset -/

@[simp] theorem statusWord_takeReset (s : State) : (takeReset s).statusWord = 0 := by
  rw [State.statusWord, takeReset_cause, takeReset_fault, takeReset_busy]
  rfl

/-- Settles O28: a step from FAULT = 1 keeps the record or is a reset, and a reset zeroes the record. -/
theorem onlyResetClearsFault : Obligations.OnlyResetClearsFault := by
  refine ⟨fun s t hf h => ?_, fun s => ?_, fun s => ⟨step_regRead .status s, step_regRead .faultInfo s⟩⟩
  · rcases sameRecord_or_reset hf h with ⟨fault, cause, info⟩ | reset
    · exact .inl ⟨fault.trans hf, cause, info⟩
    · exact .inr reset
  · exact ⟨takeReset s, rfl, takeReset_fault s, statusWord_takeReset s, takeReset_faultInfo s⟩

end Sys2Proof.Machine
end

section
/-! PROOFS. Reset (70_reset_and_hazards R300, R301): State.reset and the state after a reset during a run are idle with no
fault recorded, and State.reset meets the invariant. -/

namespace Sys2Proof.Machine

/-- The parts of the invariant at State.reset: no fault is recorded, no command is under way, and memory lists no byte. -/
theorem Inv.reset (m : Nat) : Inv m State.reset where
  record := ⟨fun _ => rfl, fun _ => rfl, fun faulted => absurd faulted Bool.false_ne_true, fun _ => rfl⟩
  command := .of_not_busy rfl
  memory := ⟨reset_mem_wf, fun _ listed => absurd listed List.not_mem_nil⟩

/-- Settles O52: the invariant holds at reset whatever MEM_SIZE is. -/
theorem resetMeetsInvariant : Obligations.ResetMeetsInvariant := Inv.reset Config.memSize

/-- With BUSY = 0 an engine turn, once taken from the schedule, changes nothing (60_exceptions R273). -/
theorem step_engine_of_not_busy {s : State} (h : s.busy = false) : step (offer .engine s) = .next s :=
  congrArg Host.Outcome.next (engineTurn_of_disabled Config.memSize (.inl h))

/-- Settles O50: the fields by the lemmas on `takeReset`; the command is abandoned because BUSY = 0 leaves the engine no
step, and CTRL (0x000) and INSTR (0x014) read as 0 in every state. -/
theorem resetLeavesUnitIdle : Obligations.ResetLeavesUnitIdle := by
  refine ⟨rfl, rfl, fun s => ⟨takeReset s, rfl, statusWord_takeReset s, takeReset_faultInfo s, takeReset_busy s,
    takeReset_fault s, takeReset_cause s, fun a => ?_, takeReset_schedule s, ?_, ?_, ?_⟩⟩
  · rw [takeReset_mem]
  · exact step_engine_of_not_busy (takeReset_busy s)
  · exact step_regRead .ctrl (takeReset s)
  · exact step_regRead .instr (takeReset s)

end Sys2Proof.Machine
end
